-- ==== Sys2Proof/Word.lean ====
section
/-! DEFINITION. The word types of the block: bytes and 16-bit quantities (00_scope.md rule R10, 20_memory.md rule R61). -/

namespace Sys2Proof

/-- A byte: a character of a record line, a command, a status, a cell of a buffer (rule R10). -/
abbrev Byte := BitVec 8

/-- A 16-bit quantity: a program memory address or a fill word (rules R61, R69). -/
abbrev Word16 := BitVec 16

end Sys2Proof
end

