-- ==== Sys2Proof/Config.lean ====
section
/-! DEFINITION. The parameters of a run (00_scope.md rules R7 to R9), the fixed byte values, the agents' events (rule R14),
and the free values: constants with no body, so that nothing proved can rest on what they are. -/

namespace Sys2Proof

/-- The step one agent is given (00_scope.md rule R14). The source fixes no order between agents. -/
inductive Event where
  /-- The sequencer takes its next step. -/
  | sequencer
  /-- The receive agent takes its step, RXISR (40_transport.md rule R132). -/
  | receive
  /-- The transmitter takes its step (40_transport.md rule R138). -/
  | transmitter
  /-- The flash engine takes its step (43_flash_programmer.md rule R210). -/
  | flashEngine
  /-- The peer puts a byte on the inbound wire (40_transport.md rule R139). -/
  | peer (b : Byte)
  /-- The peer takes a byte from the outbound wire, which changes no state of the block (rule R14). -/
  | peerTakes
  deriving DecidableEq, Repr, Inhabited

/-- The four fuse and lock bytes in the order `ReadFuseBytes()` returns them (30_encoding.md rule R108). -/
structure FuseBytes where
  f0 : Byte
  f1 : Byte
  f2 : Byte
  f3 : Byte
  deriving DecidableEq, Repr

/-- The parameters of a run, fixed before reset and read-only afterwards (rules R7, R8; 10_state.md rules R43, R45). -/
structure Config where
  /-- RX_CAP: capacity of the receive ring buffer. -/
  rxCap : Nat
  /-- XOFF_FREE: the low watermark. -/
  xoffFree : Nat
  /-- XON_FREE: the high watermark. -/
  xonFree : Nat
  /-- RX_HW_DEPTH: how many bytes the serial receiver holds. -/
  rxHwDepth : Nat
  /-- PAGE_SIZE: flash page size in bytes. -/
  pageSize : Nat
  /-- FLASH_SIZE: program memory size in bytes. -/
  flashSize : Nat
  /-- BOOT_START: the partition boundary address. -/
  bootStart : Word16
  /-- APP_ENTRY: where control goes at hand-off; no rule reads it (rule R236). -/
  appEntry : Word16
  /-- VERSION: the version string of the Info reply. -/
  version : List Byte
  /-- READY_BYTE: the sentinel sent on entry. -/
  readyByte : Byte
  /-- What the collaborator `ReadFuseBytes()` returns. -/
  fuses : FuseBytes
  /-- ENABLE: the result of the enable policy, sampled once. -/
  enable : Bool
  deriving DecidableEq, Repr

/-- The constraints of rules R8 and R9. A configuration that breaks one is refused. -/
abbrev Config.Admissible (c : Config) : Prop :=
  c.xoffFree < c.xonFree ∧ c.xonFree ≤ c.rxCap ∧ 1 ≤ c.rxCap ∧ 1 ≤ c.rxHwDepth ∧
  1 ≤ c.pageSize ∧ c.pageSize &&& (c.pageSize - 1) = 0 ∧ c.pageSize % 2 = 0 ∧
  c.flashSize % c.pageSize = 0 ∧ c.flashSize ≤ 65536 ∧
  c.bootStart.toNat ≤ c.flashSize ∧ c.bootStart.toNat % c.pageSize = 0 ∧
  c.version.length ≤ 255

/-- START_MARKER, the ASCII code of `:` (rule R8). -/
def startMarker : Byte := 0x3A

/-- XON (rules R7, R104). -/
def xonByte : Byte := 0x11

/-- XOFF (rules R7, R104). -/
def xoffByte : Byte := 0x13

/-- HDR_LEN: "a fixed 9-byte record header" (rule R7). -/
def hdrLen : Nat := 9

/-- ADDR_FIELD_LEN of the Info reply (rules R8, R107). -/
def addrFieldLen : Byte := 2

/-- Which agent steps where the run's script says nothing (rule R14): a free value. Log entry 1. -/
opaque Config.freeEvent : Nat → Event

/-- READY_BYTE at reset: open, no value in the spec (rule R8): a free value. Log entry 5. -/
opaque Config.freeReadyByte : Byte

/-- The fuse bytes at reset: an input of the run, any value (rule R233): free values. Log entry 5. -/
opaque Config.freeFuseByte : Nat → Byte

/-- The spec's test configuration T0 (95_test_vectors.md section 0), which State.reset holds, with the free values where T0
gives none or a stand-in. DESIGN CHOICE, unsafe. Log entries 4 and 5. -/
def Config.t0 : Config where
  rxCap := 32
  xoffFree := 4
  xonFree := 16
  rxHwDepth := 1
  pageSize := 128
  flashSize := 32768
  bootStart := 0x7000
  appEntry := 0x0000
  version := [0x76, 0x31]
  readyByte := Config.freeReadyByte
  fuses := ⟨Config.freeFuseByte 0, Config.freeFuseByte 1, Config.freeFuseByte 2, Config.freeFuseByte 3⟩
  enable := true

end Sys2Proof
end

