-- ==== Sys2Proof/Syntax.lean ====
section
/-! DEFINITION. The syntax of the block: the five encoded spaces, the record types' data, the error names, and the ONE
inductive of instructions, one constructor for each row of spec/opcode_table.json. -/

namespace Sys2Proof

/-- The five kinds of encoded item (30_encoding.md rule R90). -/
inductive Space where
  /-- Operation select of a unit operation, format OP (rule R112). -/
  | op
  /-- Command byte, format CMD (rule R91). -/
  | cmd
  /-- Record line, format REC (rule R94). -/
  | record
  /-- Status byte, format STS (rule R101). -/
  | sts
  /-- Control byte, format CTL (rule R104). -/
  | ctl
  deriving DecidableEq, Repr

/-- The nine characters of a record header, under the names of the table's line format
`":" n1 n0 a3 a2 a1 a0 t1 t0` (30_encoding.md rule R94). -/
structure Header where
  marker : Byte
  n1 : Byte
  n0 : Byte
  a3 : Byte
  a2 : Byte
  a1 : Byte
  a0 : Byte
  t1 : Byte
  t0 : Byte
  deriving DecidableEq, Repr

/-- The four address characters of a header, which the header phase does not examine (41_hex_decoder.md rule R163). -/
structure AddrChars where
  a3 : Byte
  a2 : Byte
  a1 : Byte
  a0 : Byte
  deriving DecidableEq, Repr

/-- A decoded hex record (10_state.md rule R22, 41_hex_decoder.md rule R164). -/
structure HexRecord where
  byteCount : Byte
  address : Word16
  recordType : Byte
  payload : List Byte
  checksum : Byte
  deriving DecidableEq, Repr

/-- The field a HexDigitError was found in (41_hex_decoder.md rule R166). -/
inductive Field where
  | byteCount
  | address
  | recordType
  | payload
  | checksum
  /-- DECBYTE run by itself, on a pair that is no field of a record (rule R161). -/
  | pair
  deriving DecidableEq, Repr

/-- The block's synchronous errors, all five of them (60_exceptions.md rule R260). They are return values, not traps. -/
inductive BlockError where
  | framing
  | hexDigit (field : Field)
  | checksum
  | unknownCommand
  | notImplemented
  deriving DecidableEq, Repr

/-- The instructions: the unit operations, the wire commands, the record types, the status bytes and the control bytes
(00_scope.md rule R1, 30_encoding.md rule R90). -/
inductive Instr where
  /-- OP 0x0 SEND: send one byte (40_transport.md rule R130). -/
  | send (b : Byte)
  /-- OP 0x1 RECV: take one byte from the receive queue (40_transport.md rule R134). -/
  | recv
  /-- OP 0x2 RXISR: the receive handler (40_transport.md rules R132, R133). -/
  | rxisr
  /-- OP 0x3 DECBYTE: decode a character pair (41_hex_decoder.md rule R161). -/
  | decbyte (c1 c0 : Byte)
  /-- OP 0x4 DECHDR: decode byte count and record type of a header (41_hex_decoder.md rule R163). -/
  | dechdr (hdr : Header)
  /-- OP 0x5 DECREC: decode a whole record (41_hex_decoder.md rule R164). -/
  | decrec (hdr : Header) (body : List Byte)
  /-- OP 0x6 STAGE: write a payload into the staging buffer (42_page_buffer.md rule R182). -/
  | stage (address : Word16) (payload : List Byte)
  /-- OP 0x7 FLUSHPENDING: flush the staged page, if there is one (42_page_buffer.md rule R186). -/
  | flushPending
  /-- OP 0x8 FLUSH: erase and program the page at `pageStart` (43_flash_programmer.md rule R201). -/
  | flush
  /-- OP 0x9 CSENTER: enter a critical section (43_flash_programmer.md rule R206). -/
  | csEnter
  /-- OP 0xA CSLEAVE: leave a critical section (43_flash_programmer.md rule R207). -/
  | csLeave
  /-- OP 0xB HANDOFF: give control to the application (44_command_sequencer.md rule R236). -/
  | handoff
  /-- CMD 0x71 `q` Quit (44_command_sequencer.md rule R234). -/
  | cmdQuit
  /-- CMD 0x66 `f` ReadFuses (44_command_sequencer.md rule R233). -/
  | cmdFuses
  /-- CMD 0x69 `i` Info (44_command_sequencer.md rule R232). -/
  | cmdInfo
  /-- CMD 0x75 `u` Upload (44_command_sequencer.md rule R223). -/
  | cmdUpload
  /-- CMD 0x76 `v` Verify (44_command_sequencer.md rule R230). -/
  | cmdVerify
  /-- CMD any other byte: unknown command (44_command_sequencer.md rule R235). -/
  | cmdUnknown (c : Byte)
  /-- REC type 0x00 DATA (44_command_sequencer.md rule R226). -/
  | recData (address : Word16) (payload : List Byte)
  /-- REC type 0x01 END_OF_FILE (44_command_sequencer.md rule R227). -/
  | recEof (address : Word16) (payload : List Byte)
  /-- REC type 0x02, judged on its header alone (44_command_sequencer.md rule R228). -/
  | recEsa (n : Byte) (addr : AddrChars)
  /-- REC type 0x03 (rule R228). -/
  | recSsa (n : Byte) (addr : AddrChars)
  /-- REC type 0x04 (rule R228). -/
  | recEla (n : Byte) (addr : AddrChars)
  /-- REC type 0x05 (rule R228). -/
  | recSla (n : Byte) (addr : AddrChars)
  /-- REC types 0x06 to 0xFF (rule R228). -/
  | recOther (t n : Byte) (addr : AddrChars)
  /-- STS code 0 with a detail that has no name of its own (30_encoding.md rules R101 to R103). -/
  | stsOk (detail : BitVec 5)
  /-- STS code 1 (rules R102, R109). -/
  | stsUnknownCommand
  /-- STS code 2 (rules R102, R110). -/
  | stsQuitting
  /-- STS code 3 (rules R102, R228). -/
  | stsNotImplemented
  /-- STS code 4 (rules R102, R261). -/
  | stsErrFraming
  /-- STS code 5 (rules R102, R262). -/
  | stsErrHexDigit
  /-- STS code 6 (rules R102, R262). -/
  | stsErrDecode
  /-- STS code 7 (rules R102, R263). -/
  | stsErrChecksum
  /-- STS 0x00, OK with detail 0 (rule R103). -/
  | okPlain
  /-- STS 0x01, OK with detail 1 (rules R103, R224). -/
  | okHeaderAccepted
  /-- STS 0x02, OK with detail 2 (rule R103). -/
  | okPayloadAccepted
  /-- STS 0x03, OK with detail 3 (rules R103, R226). -/
  | okLineCommitted
  /-- STS 0x04, OK with detail 4 (rules R103, R227). -/
  | okFinished
  /-- CTL 0x11 XON (rules R104, R134). -/
  | ctlXon
  /-- CTL 0x13 XOFF (rules R104, R132). -/
  | ctlXoff
  /-- CTL READY_BYTE (rules R104, R303). -/
  | ctlReady
  deriving DecidableEq, Repr

end Sys2Proof
end

