-- ==== Sys2Proof/Machine/Operands.lean ====
section
/-! DEFINITION. Operand forms: byte order, hexadecimal digits and character pairs, the header and the record decoders
(41_hex_decoder.md), the status byte's layout, and the reply and record formats (30_encoding.md). -/

namespace Sys2Proof.Machine

/-- `{hi, lo}`, that is `256 * hi + lo`: a 16-bit value from its bytes (00_scope.md rule R10, 41_hex_decoder.md rule R162). -/
def joinBytes (hi lo : Byte) : Word16 := BitVec.ofNat 16 (256 * hi.toNat + lo.toNat)

/-- `w[15:8]`. -/
def hiByte (w : Word16) : Byte := w.extractLsb' 8 8

/-- `w[7:0]`. -/
def loByte (w : Word16) : Byte := w.extractLsb' 0 8

/-- HexVal: the value of a hexadecimal digit character, upper case only (rules R95, R160). -/
def hexVal (c : Byte) : Option Byte :=
  if 0x30 ≤ c ∧ c ≤ 0x39 then some (c - 0x30)
  else if 0x41 ≤ c ∧ c ≤ 0x46 then some (c - 0x41 + 10)
  else none

/-- DecByte: an 8-bit field from its two characters; `none` is HexDigitError (rules R96, R161). -/
def decByte (c1 c0 : Byte) : Option Byte :=
  match hexVal c1, hexVal c0 with
  | some h, some l => some (16 * h + l)
  | _, _ => none

/-- Dec16: the 16-bit address field from its four characters (rule R162). -/
def dec16 (c3 c2 c1 c0 : Byte) : Option Word16 :=
  match decByte c3 c2, decByte c1 c0 with
  | some hi, some lo => some (joinBytes hi lo)
  | _, _ => none

/-- The character of a digit 0 to 15, the inverse of HexVal (rule R167). -/
def hexChar (v : Byte) : Byte := if v < 10 then 0x30 + v else 0x41 + (v - 10)

/-- Two upper-case hexadecimal characters, high digit first (rule R167). -/
def hexPair (b : Byte) : List Byte := [hexChar (b >>> 4), hexChar (b &&& 0x0F)]

/-- The header's characters in wire order (rule R94). -/
def headerChars (h : Header) : List Byte :=
  [h.marker, h.n1, h.n0, h.a3, h.a2, h.a1, h.a0, h.t1, h.t0]

/-- The first nine bytes as a header, and what follows them (rule R94). -/
def headerOf : List Byte → Option (Header × List Byte)
  | m :: n1 :: n0 :: a3 :: a2 :: a1 :: a0 :: t1 :: t0 :: rest => some (⟨m, n1, n0, a3, a2, a1, a0, t1, t0⟩, rest)
  | _ => none

/-- The header's four address characters. -/
def headerAddr (h : Header) : AddrChars := ⟨h.a3, h.a2, h.a1, h.a0⟩

/-- DecHdr: start marker, byte count, record type; the address is not examined (rule R163). -/
def decHdr (h : Header) : Except BlockError (Byte × Byte) :=
  if h.marker ≠ startMarker then .error .framing
  else match decByte h.n1 h.n0 with
    | none => .error (.hexDigit .byteCount)
    | some n => match decByte h.t1 h.t0 with
      | none => .error (.hexDigit .recordType)
      | some t => .ok (n, t)

/-- The length of the body a header announces: `2n + 2` (rules R94, R100). A header whose byte count does not decode
announces none. -/
def bodyLength (h : Header) : Nat :=
  match decByte h.n1 h.n0 with
  | some n => 2 * n.toNat + 2
  | none => 0

/-- `k` character pairs as bytes, and the characters after them; `none` when one is not a pair of digits (rule R164). -/
def decPairs : Nat → List Byte → Option (List Byte × List Byte)
  | 0, cs => some ([], cs)
  | k + 1, c1 :: c0 :: cs =>
    match decByte c1 c0, decPairs k cs with
    | some b, some (bs, rest) => some (b :: bs, rest)
    | _, _ => none
  | _ + 1, _ => none

/-- The sum of all payload bytes modulo 256. -/
def byteSum : List Byte → Byte
  | [] => 0
  | b :: bs => b + byteSum bs

/-- The sum a valid record has equal to zero (rule R97): byte count, both address bytes, record type, payload, checksum. -/
def recordSum (n : Byte) (addr : Word16) (t : Byte) (payload : List Byte) (ck : Byte) : Byte :=
  n + hiByte addr + loByte addr + t + byteSum payload + ck

/-- The checksum a sender computes (rule R97). -/
def checksumOf (n : Byte) (addr : Word16) (t : Byte) (payload : List Byte) : Byte :=
  - recordSum n addr t payload 0

/-- DecRec, from the byte count on: address, type, payload, checksum digits, then the sum (rules R164, R165). -/
def decFields (h : Header) (n : Byte) (body : List Byte) : Except BlockError HexRecord :=
  match dec16 h.a3 h.a2 h.a1 h.a0 with
  | none => .error (.hexDigit .address)
  | some addr => match decByte h.t1 h.t0 with
    | none => .error (.hexDigit .recordType)
    | some t => match decPairs n.toNat body with
      | none => .error (.hexDigit .payload)
      | some (p, c1 :: c0 :: _) => match decByte c1 c0 with
        | none => .error (.hexDigit .checksum)
        | some ck =>
          if recordSum n addr t p ck = 0 then .ok ⟨n, addr, t, p, ck⟩ else .error .checksum
      | some (_, _) => .error (.hexDigit .checksum)

/-- DecRec: the whole record, the earliest fault first (rules R164, R165). -/
def decRec (h : Header) (body : List Byte) : Except BlockError HexRecord :=
  if h.marker ≠ startMarker then .error .framing
  else match decByte h.n1 h.n0 with
    | none => .error (.hexDigit .byteCount)
    | some n => decFields h n body

/-- The characters of a valid record line (rules R94, R167). -/
def recordLine (r : HexRecord) : List Byte :=
  startMarker :: hexPair r.byteCount ++ hexPair (hiByte r.address) ++ hexPair (loByte r.address) ++
    hexPair r.recordType ++ r.payload.flatMap hexPair ++ hexPair r.checksum

/-- The record a sender makes of a type, an address and a payload (rule R97). -/
def mkRecord (t : Byte) (addr : Word16) (payload : List Byte) : HexRecord :=
  let n : Byte := BitVec.ofNat 8 payload.length
  ⟨n, addr, t, payload, checksumOf n addr t payload⟩

/-- The header characters of a record of type `t` whose address characters stand unexamined (rule R228). -/
def headerLine (t n : Byte) (a : AddrChars) : List Byte :=
  startMarker :: hexPair n ++ [a.a3, a.a2, a.a1, a.a0] ++ hexPair t

/-- `Status(code, detail) = {code[2:0], detail[4:0]}` (rule R101). -/
def statusByte (code : BitVec 3) (detail : BitVec 5) : Byte := code ++ detail

/-- The Info reply (rules R107, R232), the boundary low byte first (20_memory.md rule R66). -/
def infoReply (c : Config) : List Byte :=
  BitVec.ofNat 8 c.version.length :: c.version ++ [addrFieldLen, loByte c.bootStart, hiByte c.bootStart]

/-- The ReadFuses reply: FUSE_COUNT = 4 raw bytes (rules R108, R233). -/
def fuseReply (c : Config) : List Byte := [c.fuses.f0, c.fuses.f1, c.fuses.f2, c.fuses.f3]

end Sys2Proof.Machine
end

