-- ==== Sys2Proof/WellFormed.lean ====
section
/-! DEFINITION. Which terms of Instr stand for an encodable item: the operand ranges of 30_encoding.md and the unit files. -/

namespace Sys2Proof

/-- DECREC's body is as long as its header announces (41_hex_decoder.md rule R164); after a header whose byte count does not
decode any length up to the longest body, 512, is admitted. -/
def bodyFits (h : Header) (body : List Byte) : Bool :=
  match Machine.decByte h.n1 h.n0 with
  | some n => body.length == 2 * n.toNat + 2
  | none => decide (body.length ≤ 512)

/-- A byte that is none of the five command letters (30_encoding.md rule R92). -/
def notALetter (c : Byte) : Bool :=
  c != 0x71 && c != 0x66 && c != 0x69 && c != 0x75 && c != 0x76

/-- The operands of an instruction lie in the ranges its encoding gives them. -/
def WellFormed : Instr → Bool
  | .decrec hdr body => bodyFits hdr body
  | .stage _ payload => decide (payload.length ≤ 255)
  | .cmdUnknown c => notALetter c
  | .recData _ payload => decide (payload.length ≤ 255)
  | .recEof _ payload => decide (payload.length ≤ 255)
  | .recOther t _ _ => decide (6 ≤ t.toNat)
  | .stsOk detail => decide (5 ≤ detail.toNat)
  | .send _ => true
  | .recv => true
  | .rxisr => true
  | .decbyte _ _ => true
  | .dechdr _ => true
  | .flushPending => true
  | .flush => true
  | .csEnter => true
  | .csLeave => true
  | .handoff => true
  | .cmdQuit => true
  | .cmdFuses => true
  | .cmdInfo => true
  | .cmdUpload => true
  | .cmdVerify => true
  | .recEsa _ _ => true
  | .recSsa _ _ => true
  | .recEla _ _ => true
  | .recSla _ _ => true
  | .stsUnknownCommand => true
  | .stsQuitting => true
  | .stsNotImplemented => true
  | .stsErrFraming => true
  | .stsErrHexDigit => true
  | .stsErrDecode => true
  | .stsErrChecksum => true
  | .okPlain => true
  | .okHeaderAccepted => true
  | .okPayloadAccepted => true
  | .okLineCommitted => true
  | .okFinished => true
  | .ctlXon => true
  | .ctlXoff => true
  | .ctlReady => true

end Sys2Proof
end

