-- ==== Sys2Proof/Decode.lean ====
section
/-! DEFINITION. The decoder of each encoded space, total on any bytes, and the encoder written from the same tables of
30_encoding.md; then the reading of one word of spec/opcode_table.json. -/

namespace Sys2Proof

open Sys2Proof.Machine

/-- Command map (rule R92): the five letters, case-sensitive, and everything else unknown (rule R93). -/
def decodeCmd (b : Byte) : Instr :=
  if b = 0x71 then .cmdQuit
  else if b = 0x66 then .cmdFuses
  else if b = 0x69 then .cmdInfo
  else if b = 0x75 then .cmdUpload
  else if b = 0x76 then .cmdVerify
  else .cmdUnknown b

/-- The record types other than DATA and END_OF_FILE (rules R98, R228). -/
def unimplementedRecord (t n : Byte) (a : AddrChars) : Instr :=
  if t = 0x02 then .recEsa n a
  else if t = 0x03 then .recSsa n a
  else if t = 0x04 then .recEla n a
  else if t = 0x05 then .recSla n a
  else .recOther t n a

/-- The record action a decoded record selects (rules R98, R225). -/
def instrOfRecord (h : Header) (r : HexRecord) : Instr :=
  if r.recordType = 0x00 then .recData r.address r.payload
  else if r.recordType = 0x01 then .recEof r.address r.payload
  else unimplementedRecord r.recordType r.byteCount (headerAddr h)

/-- A record line (rule R94): a header of an unimplemented type stands by itself, because the body is not read after it
(rule R228); a DATA or END_OF_FILE line is decoded whole (rule R164). -/
def decodeRecord (bs : List Byte) : Option (Instr × List Byte) :=
  match headerOf bs with
  | none => none
  | some (h, rest) => match decHdr h with
    | .error _ => none
    | .ok (n, t) =>
      if t = 0x00 ∨ t = 0x01 then
        if bodyLength h ≤ rest.length then
          match decRec h (rest.take (bodyLength h)) with
          | .error _ => none
          | .ok r => some (instrOfRecord h r, rest.drop (bodyLength h))
        else none
      else some (unimplementedRecord t n (headerAddr h), rest)

/-- Status byte (rules R101 to R103): code in bits 7 to 5; a detail other than 0 only with code OK. The named OK details have
rows of their own. -/
def decodeSts (b : Byte) : Option Instr :=
  if b = 0x00 then some .okPlain
  else if b = 0x01 then some .okHeaderAccepted
  else if b = 0x02 then some .okPayloadAccepted
  else if b = 0x03 then some .okLineCommitted
  else if b = 0x04 then some .okFinished
  else if b.extractLsb' 5 3 = 0 then some (.stsOk (b.extractLsb' 0 5))
  else if b = 0x20 then some .stsUnknownCommand
  else if b = 0x40 then some .stsQuitting
  else if b = 0x60 then some .stsNotImplemented
  else if b = 0x80 then some .stsErrFraming
  else if b = 0xA0 then some .stsErrHexDigit
  else if b = 0xC0 then some .stsErrDecode
  else if b = 0xE0 then some .stsErrChecksum
  else none

/-- Control byte (rule R104). `ready` is READY_BYTE. -/
def decodeCtl (ready b : Byte) : Option Instr :=
  if b = xonByte then some .ctlXon
  else if b = xoffByte then some .ctlXoff
  else if b = ready then some .ctlReady
  else none

/-- The operands of DECREC after its header: a two-byte length, then the body (log entry 9). -/
def decodeDecrec (h : Header) : List Byte → Option (Instr × List Byte)
  | l1 :: l0 :: rest =>
    if (joinBytes l1 l0).toNat ≤ rest.length ∧ bodyFits h (rest.take (joinBytes l1 l0).toNat) = true then
      some (.decrec h (rest.take (joinBytes l1 l0).toNat), rest.drop (joinBytes l1 l0).toNat)
    else none
  | _ => none

/-- The operands of STAGE: address high byte first, length, payload (log entry 9). -/
def decodeStage : List Byte → Option (Instr × List Byte)
  | a1 :: a0 :: len :: rest =>
    if len.toNat ≤ rest.length then
      some (.stage (joinBytes a1 a0) (rest.take len.toNat), rest.drop len.toNat)
    else none
  | _ => none

/-- The operands that follow a select code (rule R112, log entry 9). Codes 0xC to 0xF are unused. -/
def decodeOperands (code : Byte) (bs : List Byte) : Option (Instr × List Byte) :=
  if code = 0x00 then
    match bs with
    | b :: rest => some (.send b, rest)
    | [] => none
  else if code = 0x01 then some (.recv, bs)
  else if code = 0x02 then some (.rxisr, bs)
  else if code = 0x03 then
    match bs with
    | c1 :: c0 :: rest => some (.decbyte c1 c0, rest)
    | _ => none
  else if code = 0x04 then
    match headerOf bs with
    | some (h, rest) => some (.dechdr h, rest)
    | none => none
  else if code = 0x05 then
    match headerOf bs with
    | some (h, rest) => decodeDecrec h rest
    | none => none
  else if code = 0x06 then decodeStage bs
  else if code = 0x07 then some (.flushPending, bs)
  else if code = 0x08 then some (.flush, bs)
  else if code = 0x09 then some (.csEnter, bs)
  else if code = 0x0A then some (.csLeave, bs)
  else if code = 0x0B then some (.handoff, bs)
  else none

/-- Operation select (rule R112): the select code, then the operands. -/
def decodeOp : List Byte → Option (Instr × List Byte)
  | [] => none
  | code :: bs => decodeOperands code bs

/-- A one-byte decoder on a byte sequence. -/
def decodeFirst (f : Byte → Option Instr) : List Byte → Option (Instr × List Byte)
  | [] => none
  | b :: rest => match f b with
    | some i => some (i, rest)
    | none => none

/-- The instruction the bytes begin with, read as an item of the given space, and the bytes after it. `none` where the space
has no such item. -/
def decode (ready : Byte) : Space → List Byte → Option (Instr × List Byte)
  | .op, bs => decodeOp bs
  | .cmd, bs => decodeFirst (fun b => some (decodeCmd b)) bs
  | .record, bs => decodeRecord bs
  | .sts, bs => decodeFirst decodeSts bs
  | .ctl, bs => decodeFirst (decodeCtl ready) bs

/-- The space an instruction's encoding belongs to (rule R90). -/
def spaceOf : Instr → Space
  | .send _ => .op
  | .recv => .op
  | .rxisr => .op
  | .decbyte _ _ => .op
  | .dechdr _ => .op
  | .decrec _ _ => .op
  | .stage _ _ => .op
  | .flushPending => .op
  | .flush => .op
  | .csEnter => .op
  | .csLeave => .op
  | .handoff => .op
  | .cmdQuit => .cmd
  | .cmdFuses => .cmd
  | .cmdInfo => .cmd
  | .cmdUpload => .cmd
  | .cmdVerify => .cmd
  | .cmdUnknown _ => .cmd
  | .recData _ _ => .record
  | .recEof _ _ => .record
  | .recEsa _ _ => .record
  | .recSsa _ _ => .record
  | .recEla _ _ => .record
  | .recSla _ _ => .record
  | .recOther _ _ _ => .record
  | .stsOk _ => .sts
  | .stsUnknownCommand => .sts
  | .stsQuitting => .sts
  | .stsNotImplemented => .sts
  | .stsErrFraming => .sts
  | .stsErrHexDigit => .sts
  | .stsErrDecode => .sts
  | .stsErrChecksum => .sts
  | .okPlain => .sts
  | .okHeaderAccepted => .sts
  | .okPayloadAccepted => .sts
  | .okLineCommitted => .sts
  | .okFinished => .sts
  | .ctlXon => .ctl
  | .ctlXoff => .ctl
  | .ctlReady => .ctl

/-- The bytes of an instruction: select codes of rule R112 with the operand layout of log entry 9, the command bytes of
rule R92, record lines of rule R94, the status bytes of rules R102 and R103, the control bytes of rule R104. -/
def encode (ready : Byte) : Instr → List Byte
  | .send b => [0x00, b]
  | .recv => [0x01]
  | .rxisr => [0x02]
  | .decbyte c1 c0 => [0x03, c1, c0]
  | .dechdr h => 0x04 :: headerChars h
  | .decrec h body =>
    0x05 :: headerChars h ++ [hiByte (BitVec.ofNat 16 body.length), loByte (BitVec.ofNat 16 body.length)] ++ body
  | .stage a p => [0x06, hiByte a, loByte a, BitVec.ofNat 8 p.length] ++ p
  | .flushPending => [0x07]
  | .flush => [0x08]
  | .csEnter => [0x09]
  | .csLeave => [0x0A]
  | .handoff => [0x0B]
  | .cmdQuit => [0x71]
  | .cmdFuses => [0x66]
  | .cmdInfo => [0x69]
  | .cmdUpload => [0x75]
  | .cmdVerify => [0x76]
  | .cmdUnknown c => [c]
  | .recData a p => recordLine (mkRecord 0x00 a p)
  | .recEof a p => recordLine (mkRecord 0x01 a p)
  | .recEsa n a => headerLine 0x02 n a
  | .recSsa n a => headerLine 0x03 n a
  | .recEla n a => headerLine 0x04 n a
  | .recSla n a => headerLine 0x05 n a
  | .recOther t n a => headerLine t n a
  | .stsOk d => [statusByte 0 d]
  | .stsUnknownCommand => [statusByte 1 0]
  | .stsQuitting => [statusByte 2 0]
  | .stsNotImplemented => [statusByte 3 0]
  | .stsErrFraming => [statusByte 4 0]
  | .stsErrHexDigit => [statusByte 5 0]
  | .stsErrDecode => [statusByte 6 0]
  | .stsErrChecksum => [statusByte 7 0]
  | .okPlain => [statusByte 0 0]
  | .okHeaderAccepted => [statusByte 0 1]
  | .okPayloadAccepted => [statusByte 0 2]
  | .okLineCommitted => [statusByte 0 3]
  | .okFinished => [statusByte 0 4]
  | .ctlXon => [xonByte]
  | .ctlXoff => [xoffByte]
  | .ctlReady => [ready]

/-- The longest instruction, DECREC with a body of 512 characters: select code, header, length, body. -/
def longestInstr : Nat := 1 + 9 + 2 + 512

/-- `k` bytes of a number, the least significant first. -/
def bytesOfNat : Nat → Nat → List Byte
  | 0, _ => []
  | k + 1, w => BitVec.ofNat 8 w :: bytesOfNat k (w / 256)

/-- An opcode-table word as the bytes of an instruction: its `nbits` bits in whole bytes, bit 0 in the first byte, and zeros
up to the longest instruction. -/
def tableBytes (nbits w : Nat) : List Byte :=
  bytesOfNat (max 1 ((nbits + 7) / 8)) w ++ List.replicate longestInstr 0

/-- The space an opcode-table word is read in. Rows of different spaces share words and the word names no space, so the first
space that has a row for the byte is taken: OP, CMD, CTL, STS; every other byte is an unknown command. Log entry 10. -/
def tableSpace : List Byte → Space
  | [] => .cmd
  | b :: _ =>
    if b.toNat < 12 then .op
    else if notALetter b = false then .cmd
    else if b = xonByte ∨ b = xoffByte then .ctl
    else if (decodeSts b).isSome then .sts
    else .cmd

/-- The instruction the decoder reads from an opcode-table word. READY_BYTE plays no part in it (log entry 10), so the
decoder is given XON's value there. -/
def decodeTableWord (nbits w : Nat) : Option Instr :=
  match decode xonByte (tableSpace (tableBytes nbits w)) (tableBytes nbits w) with
  | some (i, _) => some i
  | none => none

end Sys2Proof
end

