-- ==== Sys2Proof/Machine/State.lean ====
section
/-! DEFINITION. The state of the block as plain data (10_state.md), its value after reset (rule R44), and the named reasons a
step can stop. -/

namespace Sys2Proof.Machine

/-- The sequencer state `seq`, the block's program counter (10_state.md rule R23). -/
inductive SeqState where
  | reset
  | awaitCmd
  | uploadHdr
  | uploadBody
  | verify
  | info
  | fuses
  | quit
  | unknown
  | handedOff
  deriving DecidableEq, Repr

/-- What is left of the operation in progress: the sequencer's continuation, the model's own (log entry 2). -/
inductive Task where
  /-- Run an instruction. A waiting operation leaves itself here (rule R13). -/
  | run (i : Instr)
  /-- Decode the bytes as an item of the space and run it. -/
  | fetch (sp : Space) (bytes : List Byte)
  /-- `seq <- q`. -/
  | goto (q : SeqState)
  /-- FLUSH steps 1 and 2: wait, then erase (rule R201). -/
  | flushErase
  /-- FLUSH steps 3 and 4: wait, then fill and program (rule R201). -/
  | flushProgram
  /-- FLUSH steps 5 and 6: wait, re-enable, leave the critical section (rule R201). -/
  | flushEnable
  /-- End of FLUSHPENDING: `dirty <- 0`, leave the critical section (rule R186). -/
  | retire
  /-- The rest of STAGE's loop after a flush: `dirty <- 0`, then the remaining bytes (rule R182). -/
  | stageRest (address : Word16) (payload : List Byte)
  deriving DecidableEq, Repr

/-- What a decoder operation returned (00_scope.md rule R11, 30_encoding.md rule R112): the model's own (log entry 2). It is
no error latch: only the caller of the operation reads it (rule R45). -/
inductive Result where
  | none
  | byte (b : Byte)
  | header (n t : Byte)
  | record (r : HexRecord)
  | error (e : BlockError)
  deriving DecidableEq, Repr

/-- Program memory as address and byte pairs, addresses strictly rising, no entry equal to what an unlisted address reads
as (10_state.md rule R40). -/
abbrev Memory := List Host.Cell

/-- What an unlisted address of program memory reads as: the erased byte (rule R202), which is also the launch content.
DESIGN CHOICE, unsafe. Log entry 6. -/
def Memory.blank : Byte := 0xFF

/-- The canonical form of a memory. -/
abbrev Memory.wf (m : Memory) : Prop :=
  m.Pairwise (fun c d => c.1 < d.1) ∧ ∀ c ∈ m, c.2 ≠ Memory.blank

/-- The state of the block (10_state.md rule R20), the parameters of the run (rule R45), and the model's own fields. -/
structure State where
  /-- The parameters of the run; no step writes them (rules R43, R45). -/
  cfg : Config
  /-- The agents' next steps, the input of the run (rule R14). The model's own. -/
  script : List Event
  /-- Index of the next free choice of an agent. The model's own. -/
  tick : Nat
  /-- The sequencer state (rule R23). -/
  seq : SeqState
  /-- The session is active (rule R24). -/
  active : Bool
  /-- The command byte last read (rule R22). -/
  cmd : Byte
  /-- The status byte last computed (rule R22). -/
  reply : Byte
  /-- The record header as received (rule R22). -/
  hdr : Header
  /-- The payload and checksum characters as received (rule R22). -/
  body : List Byte
  /-- The decoded record (rule R22, `rec`). -/
  record : HexRecord
  /-- The Verify request's address (rule R22). -/
  vaddr : Word16
  /-- The Verify request's count (rule R22). -/
  vcount : Byte
  /-- The global interrupt-enable flag (rule R25). -/
  I : Bool
  /-- Saved values of `I`, the innermost section's first (rule R26). -/
  isave : List Bool
  /-- The bootloader's vector table is in use (rule R27). -/
  ivsel : Bool
  /-- The receive ring buffer, RX_CAP slots (rule R31). -/
  rxbuf : List Byte
  /-- Where the next received byte is written (rule R32). -/
  head : Nat
  /-- Where the next byte is read (rule R32). -/
  tail : Nat
  /-- The number of empty slots (rule R34). -/
  free : Nat
  /-- XOFF sent and not yet XON (rule R28). -/
  paused : Bool
  /-- The transmit register is free (rule R33). -/
  txReady : Bool
  /-- Bytes the serial receiver holds, oldest first (rule R36). -/
  rxHw : List Byte
  /-- Every byte the peer has sent (rule R37). -/
  wireIn : List Byte
  /-- Every byte the block has emitted (rule R37). -/
  wireOut : List Byte
  /-- The staging buffer, PAGE_SIZE bytes (rule R38). -/
  pagebuf : List Byte
  /-- The staged page's address (rule R39). -/
  pageStart : Word16
  /-- A page is staged (rule R29). -/
  dirty : Bool
  /-- Program memory (rule R40). -/
  flash : Memory
  /-- A self-programming operation is in progress (rule R35). -/
  spmBusy : Bool
  /-- The read-while-write section is readable (rule R41). -/
  rwwEnabled : Bool
  /-- The page-fill latch, PAGE_SIZE / 2 words (rule R42). -/
  fill : List Word16
  /-- The sequencer's continuation. The model's own (log entry 2). -/
  todo : List Task
  /-- Bytes RECV has returned that the sequencer has not used yet. The model's own (log entry 2). -/
  got : List Byte
  /-- The result of the last decoder operation. The model's own (log entry 2). -/
  res : Result
  /-- An RXISR is held in Tx(XOFF) (rules R132, R324). The model's own (log entry 3). -/
  held : Bool
  /-- Ghost: the flow-control bytes of `wireOut` in order (rule R137, U17). No step reads it. Log entry 15. -/
  flowOut : List Byte
  deriving DecidableEq, Repr

/-- Why the machine stops. -/
inductive Fault where
  /-- Raised by a MemRead or a FLUSH that touches an address at or above FLASH_SIZE (20_memory.md rule R74). Safe: the device
  goes on. -/
  | flashAddressOutOfRange
  /-- Raised by a FLUSH with `pageStart >= BOOT_START` (20_memory.md rule R75). Safe: the device goes on. -/
  | flashWriteToBootSection
  /-- Raised by a MemRead with `rww_enabled = 0` (20_memory.md rule R76). Safe: no value is defined. -/
  | flashReadWhileBusy
  /-- Raised by a flash primitive issued with `spm_busy = 1` (43_flash_programmer.md rule R208). Safe: no rule reaches it. -/
  | flashPortBusy
  deriving DecidableEq, Repr

/-- Why the machine gives a step no meaning. -/
inductive Refusal where
  /-- Raised by exec alone, for an instruction that has no meaning yet. Safe. -/
  | notModelled (mnemonic : String)
  /-- Raised by CSLEAVE with `isave` empty (43_flash_programmer.md rule R207). Safe: it cannot occur under the rules. -/
  | csLeaveUnopened
  /-- Raised by step for a configuration that breaks 00_scope.md rule R9. Safe. -/
  | inadmissibleConfig
  /-- Raised by the receive agent when the interrupt would reach the application's vector table, which is outside the spec
  (10_state.md rule R27). Safe: it cannot occur inside a run. -/
  | applicationVector
  /-- Raised by step for bytes in hand that their space has no item for, such as select codes 0xC to 0xF (30_encoding.md
  rule R112). Safe: no rule produces them. -/
  | unusedEncoding
  deriving DecidableEq, Repr

/-- The state after reset of a machine with the given parameters and program memory content (rules R44, R300). Registers the
spec leaves unspecified hold zero: DESIGN CHOICE, unsafe. Log entry 7. -/
def State.resetWith (c : Config) (flash : Memory) : State where
  cfg := c
  script := []
  tick := 0
  seq := .reset
  active := false
  cmd := 0
  reply := 0
  hdr := ⟨0, 0, 0, 0, 0, 0, 0, 0, 0⟩
  body := []
  record := ⟨0, 0, 0, [], 0⟩
  vaddr := 0
  vcount := 0
  I := false
  isave := []
  ivsel := false
  rxbuf := List.replicate c.rxCap 0
  head := 0
  tail := 0
  free := c.rxCap
  paused := false
  txReady := true
  rxHw := []
  wireIn := []
  wireOut := []
  pagebuf := List.replicate c.pageSize 0
  pageStart := 0
  dirty := false
  flash := flash
  spmBusy := false
  rwwEnabled := true
  fill := List.replicate (c.pageSize / 2) 0
  todo := []
  got := []
  res := .none
  held := false
  flowOut := []

/-- The machine right after reset: configuration T0, program memory with nothing listed. -/
def State.reset : State := State.resetWith Config.t0 []

/-- Reset of a machine that has run: program memory keeps its content (rules R40, R300). It starts a new run and is no step
of one. Log entry 8. -/
def State.afterReset (s : State) : State := State.resetWith s.cfg s.flash

end Sys2Proof.Machine
end

