-- ==== Sys2Proof/Machine/Flags.lean ====
section
/-! DEFINITION. Every condition the rules test: the flow-control tests, the pending interrupt, the covered page, the queue's
emptiness. The block has no arithmetic condition codes (10_state.md rule R30). -/

namespace Sys2Proof.Machine

/-- XOFF goes out: the stored byte leaves XOFF_FREE or fewer slots and the channel is not paused (40_transport.md rule R131). -/
def xoffDue (s : State) : Bool := decide (s.free ≤ s.cfg.xoffFree) && !s.paused

/-- XON goes out: the channel is paused and the removed byte leaves XON_FREE or more slots (rule R131). -/
def xonDue (s : State) : Bool := s.paused && decide (s.cfg.xonFree ≤ s.free)

/-- At least one byte is queued (rule R134). -/
def queueFilled (s : State) : Bool := decide (s.free < s.cfg.rxCap)

/-- The receive interrupt is pending (60_exceptions.md rule R270). -/
def receivePending (s : State) : Bool := !s.rxHw.isEmpty

/-- The receive agent may step: pending and not masked (rule R270). -/
def receiveEnabled (s : State) : Bool := s.I && receivePending s

/-- The staged page covers the address; the page's end is not wrapped (42_page_buffer.md rules R181, R182; 10_state.md
rule R39). -/
def covered (a : Word16) (s : State) : Bool :=
  s.dirty && decide (s.pageStart.toNat ≤ a.toNat) && decide (a.toNat < s.pageStart.toNat + s.cfg.pageSize)

end Sys2Proof.Machine
end

