-- ==== Sys2Proof/Machine/Ops.lean ====
section
/-! DEFINITION. The named operations over memory and registers: the one home of every register's reads and writes. -/

namespace Sys2Proof.Machine

/-- An operation's answer as the outcome of a step. -/
def outcomeOf : Except Fault State → Host.Outcome State Fault Refusal
  | .ok s => .next s
  | .error f => .fault f

/-! ### Program memory (20_memory.md) -/

/-- One byte of program memory. -/
def Memory.read : Memory → Nat → Byte
  | [], _ => Memory.blank
  | (a, b) :: m, x => if x = a then b else Memory.read m x

/-- Write one byte of program memory, keeping the canonical form. -/
def Memory.write : Memory → Nat → Byte → Memory
  | [], x, v => if v = Memory.blank then [] else [(x, v)]
  | (a, b) :: m, x, v =>
    if x < a then (if v = Memory.blank then (a, b) :: m else (x, v) :: (a, b) :: m)
    else if x = a then (if v = Memory.blank then m else (x, v) :: m)
    else (a, b) :: Memory.write m x v

/-- Write a byte sequence at ascending addresses. -/
def Memory.writeBytes : Memory → Nat → List Byte → Memory
  | m, _, [] => m
  | m, a, b :: bs => Memory.writeBytes (Memory.write m a b) (a + 1) bs

/-- The byte sequence at `n` ascending addresses, each index taken mod 65536 (rule R63). -/
def Memory.readBytes (m : Memory) (a : Word16) (n : Nat) : List Byte :=
  (List.range n).map (fun k => Memory.read m ((a.toNat + k) % 65536))

/-- MemRead: defined with the read-while-write section readable and every index below FLASH_SIZE (rules R63, R74, R76). -/
def memRead (a : Word16) (n : Nat) (s : State) : Except Fault (List Byte) :=
  if s.rwwEnabled = false then .error .flashReadWhileBusy
  else if (List.range n).all (fun k => decide ((a.toNat + k) % 65536 < s.cfg.flashSize)) then
    .ok (Memory.readBytes s.flash a n)
  else .error .flashAddressOutOfRange

/-- PageBase: the address rounded down to the page boundary (rules R62, R181). -/
def pageBase (pageSize : Nat) (a : Word16) : Word16 := BitVec.ofNat 16 (a.toNat - a.toNat % pageSize)

/-! ### The sequencer's continuation (log entry 2) -/

/-- Leave a task to be done before what is already left. -/
def push (t : Task) (s : State) : State := { s with todo := t :: s.todo }

/-- Leave the sending of a byte sequence, in order. -/
def pushSends (bs : List Byte) (s : State) : State :=
  { s with todo := bs.map (fun b => Task.run (.send b)) ++ s.todo }

/-! ### Critical sections (43_flash_programmer.md rules R206, R207) -/

/-- CsEnter: save `I` and clear it, in one indivisible step (rule R206). -/
def enterSection (s : State) : State := { s with isave := s.I :: s.isave, I := false }

/-- CsLeave on an open section: restore the saved `I` (rule R207). -/
def leaveSection (s : State) : State := { s with I := s.isave.headD s.I, isave := s.isave.tail }

/-! ### The transmit register (40_transport.md rule R130) -/

/-- Write a byte into the free transmit register: one byte emitted. -/
def emit (b : Byte) (s : State) : State := { s with txReady := false, wireOut := s.wireOut ++ [b] }

/-- Tx: emit the byte when the register is free, else wait, leaving `again` to be tried anew (rules R130, R13). -/
def transmit (b : Byte) (again : Task) (s : State) : State :=
  if s.txReady then emit b s else push again s

/-- Emit XOFF and mark the channel paused (rule R132). -/
def emitXoff (s : State) : State :=
  { s with txReady := false, wireOut := s.wireOut ++ [xoffByte], paused := true, flowOut := s.flowOut ++ [xoffByte] }

/-- Emit XON and mark the channel not paused (rule R134). -/
def emitXon (s : State) : State :=
  { s with txReady := false, wireOut := s.wireOut ++ [xonByte], paused := false, flowOut := s.flowOut ++ [xonByte] }

/-! ### The receive queue (40_transport.md) -/

/-- Store a received byte at `head`; on a full queue the oldest unread byte is overwritten (rules R132, R133). -/
def enqueue (b : Byte) (s : State) : State :=
  if s.free = 0 then
    { s with
      rxbuf := s.rxbuf.set s.head b
      head := (s.head + 1) % s.cfg.rxCap
      tail := (s.tail + 1) % s.cfg.rxCap }
  else
    { s with
      rxbuf := s.rxbuf.set s.head b
      head := (s.head + 1) % s.cfg.rxCap
      free := s.free - 1 }

/-- Take the byte at `tail` out of the queue and return it to the caller (rule R134). -/
def dequeue (s : State) : State :=
  { s with
    got := s.got ++ [s.rxbuf.getD s.tail 0]
    tail := (s.tail + 1) % s.cfg.rxCap
    free := s.free + 1 }

/-! ### Taking the block's one interrupt, and the return from it (60_exceptions.md rules R270 to R272) -/

/-- Taking the receive interrupt: the handler takes the oldest byte of the receiver and stores it. The sequencer's state is
untouched and nothing is saved; `I` stays as it is, and no nesting is possible (rules R271, R272). -/
def takeReceiveInterrupt (s : State) : State :=
  match s.rxHw with
  | [] => s
  | b :: bs => enqueue b { s with rxHw := bs }

/-- The rest of the handler and the return from it: XOFF when it is due, then back to the sequencer where it left. While
the transmit register is busy the handler is held, and the sequencer with it (rules R132, R272, R324). -/
def returnFromReceiveInterrupt (s : State) : State :=
  if xoffDue s then
    if s.txReady then emitXoff { s with held := false } else { s with held := true }
  else { s with held := false }

/-! ### The self-programming port (43_flash_programmer.md rules R202 to R204, R208) -/

/-- What a page operation requires: the port is free (rule R208), the page is inside program memory (20_memory.md rule R74)
and outside the bootloader partition (rule R75). -/
def pageCheck (a : Word16) (s : State) : Except Fault Unit :=
  if s.spmBusy then .error .flashPortBusy
  else if s.cfg.flashSize ≤ a.toNat then .error .flashAddressOutOfRange
  else if s.cfg.bootStart.toNat ≤ a.toNat then .error .flashWriteToBootSection
  else .ok ()

/-- FlashErase (rule R202). -/
def flashErase (a : Word16) (s : State) : Except Fault State :=
  match pageCheck a s with
  | .error f => .error f
  | .ok () => .ok { s with
      spmBusy := true
      rwwEnabled := false
      flash := Memory.writeBytes s.flash a.toNat (List.replicate s.cfg.pageSize 0xFF) }

/-- FlashFill: store a word in the fill latch (rule R203). -/
def flashFill (a : Nat) (w : Word16) (s : State) : Except Fault State :=
  if s.spmBusy then .error .flashPortBusy
  else .ok { s with fill := s.fill.set ((a % s.cfg.pageSize) / 2) w }

/-- Word `j` of the staged page: the odd byte is the high one (20_memory.md rule R69). -/
def pageWord (pagebuf : List Byte) (j : Nat) : Word16 :=
  joinBytes (pagebuf.getD (2 * j + 1) 0) (pagebuf.getD (2 * j) 0)

/-- FLUSH step 4: `n` words from word `j` on into the fill latch, one FlashFill each (rule R201). -/
def fillWords : Nat → Nat → State → Except Fault State
  | 0, _, s => .ok s
  | n + 1, j, s =>
    match flashFill (s.pageStart.toNat + 2 * j) (pageWord s.pagebuf j) s with
    | .error f => .error f
    | .ok s' => fillWords n (j + 1) s'

/-- Byte `k` of the fill latch: the low byte of its word at even `k`, the high byte at odd `k` (rule R203). -/
def fillByte (fill : List Word16) (k : Nat) : Byte :=
  if k % 2 = 0 then loByte (fill.getD (k / 2) 0) else hiByte (fill.getD (k / 2) 0)

/-- FlashProgram: programming can only clear bits (rule R203). -/
def flashProgram (a : Word16) (s : State) : Except Fault State :=
  match pageCheck a s with
  | .error f => .error f
  | .ok () => .ok { s with
      spmBusy := true
      rwwEnabled := false
      flash := Memory.writeBytes s.flash a.toNat
        ((List.range s.cfg.pageSize).map (fun k => Memory.read s.flash (a.toNat + k) &&& fillByte s.fill k)) }

/-- FlashRwwEnable (rule R204). -/
def flashRwwEnable (s : State) : Except Fault State :=
  if s.spmBusy then .error .flashPortBusy
  else .ok { s with rwwEnabled := true }

/-! ### The steps of the hardware agents (40_transport.md rules R138, R139; 43_flash_programmer.md rule R210) -/

/-- The transmitter frees the register (rule R138). -/
def transmitterStep (s : State) : State := { s with txReady := true }

/-- The flash engine finishes the operation in progress (rule R210). -/
def flashEngineStep (s : State) : State := { s with spmBusy := false }

/-- The peer's byte reaches the receiver, or is lost without trace when the receiver is full (rule R139). -/
def peerStep (b : Byte) (s : State) : State :=
  if s.rxHw.length < s.cfg.rxHwDepth then { s with wireIn := s.wireIn ++ [b], rxHw := s.rxHw ++ [b] }
  else { s with wireIn := s.wireIn ++ [b] }

end Sys2Proof.Machine
end

