-- ==== Sys2Proof/Machine/Status.lean ====
section
/-! DEFINITION. The status bytes as instructions (30_encoding.md rules R101 to R103, R109, R110): the status byte is computed
into `reply` and sent (44_command_sequencer.md rule R222). Log entry 11. -/

namespace Sys2Proof.Machine

/-- Compute a status byte and send it (10_state.md rule R22, 40_transport.md rule R130). -/
def sendStatus (code : BitVec 3) (detail : BitVec 5) (again : Task) (s : State) : State :=
  transmit (statusByte code detail) again { s with reply := statusByte code detail }

/-- STS.OK with a detail that has no name of its own (rules R102, R103). -/
def execStsOk (detail : BitVec 5) (s : State) : Host.Outcome State Fault Refusal :=
  .next (sendStatus 0 detail (.run (.stsOk detail)) s)

/-- STS.UNKNOWN_COMMAND (rules R102, R109): the status byte; the echo follows it as a SEND (rule R235). -/
def execStsUnknownCommand (s : State) : Host.Outcome State Fault Refusal :=
  .next (sendStatus 1 0 (.run .stsUnknownCommand) s)

/-- STS.QUITTING (rules R102, R110). -/
def execStsQuitting (s : State) : Host.Outcome State Fault Refusal :=
  .next (sendStatus 2 0 (.run .stsQuitting) s)

/-- STS.NOT_IMPLEMENTED (rules R102, R265). -/
def execStsNotImplemented (s : State) : Host.Outcome State Fault Refusal :=
  .next (sendStatus 3 0 (.run .stsNotImplemented) s)

/-- STS.ERR_FRAMING (rules R102, R261). -/
def execStsErrFraming (s : State) : Host.Outcome State Fault Refusal :=
  .next (sendStatus 4 0 (.run .stsErrFraming) s)

/-- STS.ERR_HEX_DIGIT (rules R102, R262). -/
def execStsErrHexDigit (s : State) : Host.Outcome State Fault Refusal :=
  .next (sendStatus 5 0 (.run .stsErrHexDigit) s)

/-- STS.ERR_DECODE (rules R102, R262). -/
def execStsErrDecode (s : State) : Host.Outcome State Fault Refusal :=
  .next (sendStatus 6 0 (.run .stsErrDecode) s)

/-- STS.ERR_CHECKSUM (rules R102, R263). -/
def execStsErrChecksum (s : State) : Host.Outcome State Fault Refusal :=
  .next (sendStatus 7 0 (.run .stsErrChecksum) s)

/-- OK.PLAIN (rule R103). -/
def execOkPlain (s : State) : Host.Outcome State Fault Refusal :=
  .next (sendStatus 0 0 (.run .okPlain) s)

/-- OK.HEADER_ACCEPTED (rules R103, R224). -/
def execOkHeaderAccepted (s : State) : Host.Outcome State Fault Refusal :=
  .next (sendStatus 0 1 (.run .okHeaderAccepted) s)

/-- OK.PAYLOAD_ACCEPTED (rule R103). -/
def execOkPayloadAccepted (s : State) : Host.Outcome State Fault Refusal :=
  .next (sendStatus 0 2 (.run .okPayloadAccepted) s)

/-- OK.LINE_COMMITTED (rules R103, R226). -/
def execOkLineCommitted (s : State) : Host.Outcome State Fault Refusal :=
  .next (sendStatus 0 3 (.run .okLineCommitted) s)

/-- OK.FINISHED (rules R103, R227). -/
def execOkFinished (s : State) : Host.Outcome State Fault Refusal :=
  .next (sendStatus 0 4 (.run .okFinished) s)

end Sys2Proof.Machine
end

