-- ==== Sys2Proof/Machine/Transport.lean ====
section
/-! DEFINITION. The Transport's operations SEND, RECV, RXISR (40_transport.md) and the control bytes it and the entry send
(30_encoding.md rule R104). -/

namespace Sys2Proof.Machine

/-- SEND (rule R130). -/
def execSend (b : Byte) (s : State) : Host.Outcome State Fault Refusal :=
  .next (transmit b (.run (.send b)) s)

/-- RECV's critical section after the dequeue: XON when it is due, then leave the section. While the transmit register is busy
the section stays open (rule R134). -/
def finishReceive (s : State) : State :=
  if xonDue s then
    if s.txReady then leaveSection (emitXon s) else push (.run .ctlXon) (push (.run .csLeave) s)
  else leaveSection s

/-- RECV: wait until a byte is queued, then dequeue it in a critical section (rule R134). -/
def execRecv (s : State) : Host.Outcome State Fault Refusal :=
  if queueFilled s then .next (finishReceive (dequeue (enterSection s)))
  else .next (push (.run .recv) s)

/-- RXISR, where it is enabled: one byte from the receiver into the queue, XOFF when due (rules R132, R133). Where it is not,
it waits (rule R270). -/
def execRxisr (s : State) : Host.Outcome State Fault Refusal :=
  if receiveEnabled s then .next (returnFromReceiveInterrupt (takeReceiveInterrupt s))
  else .next (push (.run .rxisr) s)

/-- XON: emitted by RECV, after which the channel is not paused (rules R104, R134). -/
def execCtlXon (s : State) : Host.Outcome State Fault Refusal :=
  .next (if s.txReady then emitXon s else push (.run .ctlXon) s)

/-- XOFF: emitted by RXISR, after which the channel is paused (rules R104, R132). -/
def execCtlXoff (s : State) : Host.Outcome State Fault Refusal :=
  .next (if s.txReady then emitXoff s else push (.run .ctlXoff) s)

/-- The ready byte (rules R104, R303). -/
def execCtlReady (s : State) : Host.Outcome State Fault Refusal :=
  .next (transmit s.cfg.readyByte (.run .ctlReady) s)

end Sys2Proof.Machine
end

