-- ==== Sys2Proof/Machine/Commands.lean ====
section
/-! DEFINITION. The commands and the hand-off (44_command_sequencer.md). A command that reads more input or sends more than one
byte goes on in the sequencer's later steps, by its `seq` state and by what it leaves in `todo`. -/

namespace Sys2Proof.Machine

/-- Send a reply, its first byte at once where the transmit register is free (rule R222). -/
def startReply (reply : List Byte) (s : State) : Host.Outcome State Fault Refusal :=
  match reply with
  | [] => .next s
  | b :: bs => execSend b (pushSends bs s)

/-- Upload: the header reading begins; the command byte gets no reply of its own (rule R223). -/
def execCmdUpload (s : State) : Host.Outcome State Fault Refusal := .next { s with seq := .uploadHdr }

/-- Verify: the reading of the three request bytes begins (rule R230). -/
def execCmdVerify (s : State) : Host.Outcome State Fault Refusal := .next { s with seq := .verify }

/-- Info (rule R232). -/
def execCmdInfo (s : State) : Host.Outcome State Fault Refusal := startReply (infoReply s.cfg) { s with seq := .info }

/-- ReadFuses (rule R233). -/
def execCmdFuses (s : State) : Host.Outcome State Fault Refusal := startReply (fuseReply s.cfg) { s with seq := .fuses }

/-- Quit: the acknowledgement; `active` is cleared once it is sent (rule R234). -/
def execCmdQuit (s : State) : Host.Outcome State Fault Refusal := execStsQuitting { s with seq := .quit }

/-- Unknown command: the status byte, then the offending byte (rules R109, R235). -/
def execCmdUnknown (c : Byte) (s : State) : Host.Outcome State Fault Refusal :=
  execStsUnknownCommand (push (.run (.send c)) { s with seq := .unknown })

/-- HANDOFF: mask interrupts, the application's vector table, control to the application. It does not return: nothing is
left to do (rule R236). -/
def execHandoff (s : State) : Host.Outcome State Fault Refusal :=
  .next { s with I := false, ivsel := false, seq := .handedOff, todo := [] }

end Sys2Proof.Machine
end

