-- ==== Sys2Proof/Machine/FlashProgrammer.lean ====
section
/-! DEFINITION. The Flash Programmer's FLUSH and the critical sections CSENTER, CSLEAVE (43_flash_programmer.md). FLUSH waits
three times for the flash engine; each wait ends one part of it. -/

namespace Sys2Proof.Machine

/-- FLUSH steps 1 and 2: wait for any prior operation, then erase the page (rules R201, R202). -/
def flushErase (s : State) : Host.Outcome State Fault Refusal :=
  if s.spmBusy then .next (push .flushErase s)
  else match flashErase s.pageStart s with
    | .error f => .fault f
    | .ok s' => .next (push .flushProgram s')

/-- FLUSH steps 3 and 4: wait for the erase, fill the latch word by word, program the page (rules R201, R203). -/
def flushProgram (s : State) : Host.Outcome State Fault Refusal :=
  if s.spmBusy then .next (push .flushProgram s)
  else match fillWords (s.cfg.pageSize / 2) 0 s with
    | .error f => .fault f
    | .ok s1 => match flashProgram s1.pageStart s1 with
      | .error f => .fault f
      | .ok s2 => .next (push .flushEnable s2)

/-- FLUSH steps 5 and 6: wait for the programming, re-enable, leave the critical section (rules R201, R204). -/
def flushEnable (s : State) : Host.Outcome State Fault Refusal :=
  if s.spmBusy then .next (push .flushEnable s)
  else match flashRwwEnable s with
    | .error f => .fault f
    | .ok s' => .next (leaveSection s')

/-- FLUSH (rule R201): everything up to its first wait that does not pass at once. -/
def execFlush (s : State) : Host.Outcome State Fault Refusal := flushErase (enterSection s)

/-- CSENTER (rule R206). -/
def execCsEnter (s : State) : Host.Outcome State Fault Refusal := .next (enterSection s)

/-- CSLEAVE (rule R207); refused with no section open. -/
def execCsLeave (s : State) : Host.Outcome State Fault Refusal :=
  match s.isave with
  | [] => .refused .csLeaveUnopened
  | _ :: _ => .next (leaveSection s)

end Sys2Proof.Machine
end

