-- ==== Sys2Proof/Machine/HexDecoder.lean ====
section
/-! DEFINITION. The Hex-Record Decoder's operations (41_hex_decoder.md): combinational, no state read or written but the place
their result is returned in (log entry 2). -/

namespace Sys2Proof.Machine

/-- A decoder operation returns its result or raises its error to the caller (00_scope.md rule R11). -/
def returnResult (r : Result) (s : State) : State := { s with res := r }

/-- DECBYTE's result (rule R161). -/
def byteResult (c1 c0 : Byte) : Result :=
  match decByte c1 c0 with
  | some b => .byte b
  | none => .error (.hexDigit .pair)

/-- DECHDR's result (rule R163). -/
def headerResult (h : Header) : Result :=
  match decHdr h with
  | .ok (n, t) => .header n t
  | .error e => .error e

/-- DECREC's result (rule R164). -/
def recordResult (h : Header) (body : List Byte) : Result :=
  match decRec h body with
  | .ok r => .record r
  | .error e => .error e

/-- DECBYTE (rule R161). -/
def execDecByte (c1 c0 : Byte) (s : State) : Host.Outcome State Fault Refusal :=
  .next (returnResult (byteResult c1 c0) s)

/-- DECHDR (rule R163). -/
def execDecHdr (h : Header) (s : State) : Host.Outcome State Fault Refusal :=
  .next (returnResult (headerResult h) s)

/-- DECREC (rule R164). -/
def execDecRec (h : Header) (body : List Byte) (s : State) : Host.Outcome State Fault Refusal :=
  .next (returnResult (recordResult h body) s)

end Sys2Proof.Machine
end

