-- ==== Sys2Proof/Machine/PageBuffer.lean ====
section
/-! DEFINITION. The Page Buffer Manager's STAGE and FLUSHPENDING (42_page_buffer.md). -/

namespace Sys2Proof.Machine

/-- Anchor the buffer on the page of an address and shadow the page from flash (rules R181, R183). -/
def anchor (a : Word16) (s : State) : Except Fault State :=
  match memRead (pageBase s.cfg.pageSize a) s.cfg.pageSize s with
  | .error f => .error f
  | .ok page => .ok { s with pageStart := pageBase s.cfg.pageSize a, pagebuf := page, dirty := true }

/-- Write one payload byte at its offset in the staged page (rule R182). -/
def stageByte (a : Word16) (b : Byte) (s : State) : State :=
  { s with pagebuf := s.pagebuf.set (a.toNat - s.pageStart.toNat) b }

/-- STAGE's loop (rule R182), one payload byte at a time: a byte on the staged page is written into it; a byte on another page
first flushes and retires the staged page, if there is one, and anchors the buffer. The running address wraps modulo
65536 (rule R190). At the end the critical section is left. A flush interrupts the loop, which resumes in `stageRest`. -/
def stageLoop (a : Word16) : List Byte → State → Host.Outcome State Fault Refusal
  | [], s => .next (leaveSection s)
  | b :: bs, s =>
    if covered a s then stageLoop (a + 1) bs (stageByte a b s)
    else if s.dirty then execFlush (push (.stageRest a (b :: bs)) s)
    else match anchor a s with
      | .error f => .fault f
      | .ok s' => stageLoop (a + 1) bs (stageByte a b s')

/-- STAGE (rule R182): the whole of it in a critical section. -/
def execStage (a : Word16) (payload : List Byte) (s : State) : Host.Outcome State Fault Refusal :=
  stageLoop a payload (enterSection s)

/-- STAGE resumed after a flush: retire the page, go on with the remaining bytes (rules R182, R185). -/
def stageRest (a : Word16) (payload : List Byte) (s : State) : Host.Outcome State Fault Refusal :=
  stageLoop a payload { s with dirty := false }

/-- FLUSHPENDING (rule R186). -/
def execFlushPending (s : State) : Host.Outcome State Fault Refusal :=
  if s.dirty then execFlush (push .retire (enterSection s))
  else .next (leaveSection (enterSection s))

/-- FLUSHPENDING resumed after its flush: retire the page, leave the section (rule R186). -/
def retire (s : State) : Host.Outcome State Fault Refusal := .next (leaveSection { s with dirty := false })

end Sys2Proof.Machine
end

