-- ==== Sys2Proof/Machine/Records.lean ====
section
/-! DEFINITION. The record actions (44_command_sequencer.md rules R226 to R228). -/

namespace Sys2Proof.Machine

/-- DataAction: stage the payload, reply line-committed, go on with the next header (rules R223, R226). -/
def execRecData (a : Word16) (payload : List Byte) (s : State) : Host.Outcome State Fault Refusal :=
  execStage a payload (push (.run .okLineCommitted) (push (.goto .uploadHdr) s))

/-- EofAction: flush the pending page, reply finished, end the upload; the record's address and payload are ignored
(rules R223, R227). -/
def execRecEof (_a : Word16) (_payload : List Byte) (s : State) : Host.Outcome State Fault Refusal :=
  execFlushPending (push (.run .okFinished) (push (.goto .awaitCmd) s))

/-- A record type that is not implemented: reply so and end the upload (rules R228, R229). -/
def refuseRecord (s : State) : Host.Outcome State Fault Refusal :=
  execStsNotImplemented (push (.goto .awaitCmd) s)

/-- Record type 0x02, EXTENDED_SEGMENT_ADDRESS (rule R228). -/
def execRecEsa (_n : Byte) (_a : AddrChars) (s : State) : Host.Outcome State Fault Refusal := refuseRecord s

/-- Record type 0x03, start segment address (rule R228). -/
def execRecSsa (_n : Byte) (_a : AddrChars) (s : State) : Host.Outcome State Fault Refusal := refuseRecord s

/-- Record type 0x04, extended linear address (rule R228). -/
def execRecEla (_n : Byte) (_a : AddrChars) (s : State) : Host.Outcome State Fault Refusal := refuseRecord s

/-- Record type 0x05, start linear address (rule R228). -/
def execRecSla (_n : Byte) (_a : AddrChars) (s : State) : Host.Outcome State Fault Refusal := refuseRecord s

/-- Record types 0x06 to 0xFF (rule R228). -/
def execRecOther (_t _n : Byte) (_a : AddrChars) (s : State) : Host.Outcome State Fault Refusal := refuseRecord s

end Sys2Proof.Machine
end

