-- ==== Sys2Proof/Machine/Dispatch.lean ====
section
/-! DEFINITION. The dispatch: one arm per instruction, each a direct call of its meaning. -/

namespace Sys2Proof.Machine

def exec (i : Instr) (s : State) : Host.Outcome State Fault Refusal :=
  match i with
  -- Operations (30_encoding.md rule R112)
  | .send b => Sys2Proof.Machine.execSend b s
  | .recv => Sys2Proof.Machine.execRecv s
  | .rxisr => Sys2Proof.Machine.execRxisr s
  | .decbyte c1 c0 => Sys2Proof.Machine.execDecByte c1 c0 s
  | .dechdr hdr => Sys2Proof.Machine.execDecHdr hdr s
  | .decrec hdr body => Sys2Proof.Machine.execDecRec hdr body s
  | .stage address payload => Sys2Proof.Machine.execStage address payload s
  | .flushPending => Sys2Proof.Machine.execFlushPending s
  | .flush => Sys2Proof.Machine.execFlush s
  | .csEnter => Sys2Proof.Machine.execCsEnter s
  | .csLeave => Sys2Proof.Machine.execCsLeave s
  | .handoff => Sys2Proof.Machine.execHandoff s
  -- Commands (rule R92)
  | .cmdQuit => Sys2Proof.Machine.execCmdQuit s
  | .cmdFuses => Sys2Proof.Machine.execCmdFuses s
  | .cmdInfo => Sys2Proof.Machine.execCmdInfo s
  | .cmdUpload => Sys2Proof.Machine.execCmdUpload s
  | .cmdVerify => Sys2Proof.Machine.execCmdVerify s
  | .cmdUnknown c => Sys2Proof.Machine.execCmdUnknown c s
  -- Record types (rule R98)
  | .recData address payload => Sys2Proof.Machine.execRecData address payload s
  | .recEof address payload => Sys2Proof.Machine.execRecEof address payload s
  | .recEsa n addr => Sys2Proof.Machine.execRecEsa n addr s
  | .recSsa n addr => Sys2Proof.Machine.execRecSsa n addr s
  | .recEla n addr => Sys2Proof.Machine.execRecEla n addr s
  | .recSla n addr => Sys2Proof.Machine.execRecSla n addr s
  | .recOther t n addr => Sys2Proof.Machine.execRecOther t n addr s
  -- Status bytes (rules R102, R103)
  | .stsOk detail => Sys2Proof.Machine.execStsOk detail s
  | .stsUnknownCommand => Sys2Proof.Machine.execStsUnknownCommand s
  | .stsQuitting => Sys2Proof.Machine.execStsQuitting s
  | .stsNotImplemented => Sys2Proof.Machine.execStsNotImplemented s
  | .stsErrFraming => Sys2Proof.Machine.execStsErrFraming s
  | .stsErrHexDigit => Sys2Proof.Machine.execStsErrHexDigit s
  | .stsErrDecode => Sys2Proof.Machine.execStsErrDecode s
  | .stsErrChecksum => Sys2Proof.Machine.execStsErrChecksum s
  | .okPlain => Sys2Proof.Machine.execOkPlain s
  | .okHeaderAccepted => Sys2Proof.Machine.execOkHeaderAccepted s
  | .okPayloadAccepted => Sys2Proof.Machine.execOkPayloadAccepted s
  | .okLineCommitted => Sys2Proof.Machine.execOkLineCommitted s
  | .okFinished => Sys2Proof.Machine.execOkFinished s
  -- Control bytes (rule R104)
  | .ctlXon => Sys2Proof.Machine.execCtlXon s
  | .ctlXoff => Sys2Proof.Machine.execCtlXoff s
  | .ctlReady => Sys2Proof.Machine.execCtlReady s

end Sys2Proof.Machine
end

