-- ==== Sys2Proof/Machine/Sequencer.lean ====
section
/-! DEFINITION. The sequencer agent's step (44_command_sequencer.md): the task at the head of what is left, or, with nothing
left, what the state `seq` does next. -/

namespace Sys2Proof.Machine

/-- Decode bytes in hand as an item of the space and run it. -/
def runEncoded (sp : Space) (bytes : List Byte) (s : State) : Host.Outcome State Fault Refusal :=
  match decode s.cfg.readyByte sp bytes with
  | some (i, _) => exec i s
  | none => .refused .unusedEncoding

/-- One task of the continuation. -/
def runTask (t : Task) (s : State) : Host.Outcome State Fault Refusal :=
  match t with
  | .run i => exec i s
  | .fetch sp bytes => runEncoded sp bytes s
  | .goto q => .next { s with seq := q }
  | .flushErase => flushErase s
  | .flushProgram => flushProgram s
  | .flushEnable => flushEnable s
  | .retire => retire s
  | .stageRest a payload => stageRest a payload s

/-- The status byte that reports an error (60_exceptions.md rule R266). A pair that is no field of a record reports a bad
digit; no rule sends it. -/
def statusOfError : BlockError → Instr
  | .framing => .stsErrFraming
  | .hexDigit .byteCount => .stsErrDecode
  | .hexDigit .address => .stsErrDecode
  | .hexDigit .recordType => .stsErrDecode
  | .hexDigit .payload => .stsErrHexDigit
  | .hexDigit .checksum => .stsErrHexDigit
  | .hexDigit .pair => .stsErrHexDigit
  | .checksum => .stsErrChecksum
  | .unknownCommand => .stsUnknownCommand
  | .notImplemented => .stsNotImplemented

/-- Abort the upload: one status byte, then AWAIT_CMD; nothing is flushed or discarded (rule R229). -/
def abortUpload (e : BlockError) (s : State) : Host.Outcome State Fault Refusal :=
  exec (statusOfError e) (push (.goto .awaitCmd) s)

/-- Entry with ENABLE true: the session, the Transport, the staging flag, the vector table, the interrupt, the ready byte,
then AWAIT_CMD (70_reset_and_hazards.md rule R302, 40_transport.md rule R140). -/
def entry (s : State) : Host.Outcome State Fault Refusal :=
  exec .ctlReady (push (.goto .awaitCmd)
    { s with
      active := true
      head := 0
      tail := 0
      free := s.cfg.rxCap
      paused := false
      dirty := false
      ivsel := true
      I := true
      got := [] })

/-- The header phase: the nine characters as a header, and its fast-fail decode (rule R224). -/
def headerPhase (s : State) : Host.Outcome State Fault Refusal :=
  match headerOf s.got with
  | none => exec .recv s
  | some (h, rest) =>
    match decHdr h with
    | .error e => abortUpload e (returnResult (.error e) { s with hdr := h, got := rest })
    | .ok (n, t) =>
      if t = 0x00 then
        exec .okHeaderAccepted
          (push (.goto .uploadBody) (returnResult (.header n t) { s with hdr := h, got := rest }))
      else if t = 0x01 then
        .next { returnResult (.header n t) { s with hdr := h, got := rest } with seq := .uploadBody }
      else
        exec (unimplementedRecord t n (headerAddr h)) (returnResult (.header n t) { s with hdr := h, got := rest })

/-- The body phase: the whole line decoded, and the record's action (rules R225 to R227). -/
def bodyPhase (s : State) : Host.Outcome State Fault Refusal :=
  match decRec s.hdr (s.got.take (bodyLength s.hdr)) with
  | .error e =>
    abortUpload e (returnResult (.error e)
      { s with body := s.got.take (bodyLength s.hdr), got := s.got.drop (bodyLength s.hdr) })
  | .ok r =>
    exec (instrOfRecord s.hdr r) (returnResult (.record r)
      { s with body := s.got.take (bodyLength s.hdr), got := s.got.drop (bodyLength s.hdr), record := r })

/-- Verify with its three request bytes read: read program memory, send the bytes, then AWAIT_CMD (rules R105, R106, R230). -/
def verifyPhase (s : State) : Host.Outcome State Fault Refusal :=
  match s.got with
  | b0 :: b1 :: b2 :: rest =>
    match memRead (joinBytes b0 b1) b2.toNat s with
    | .error f => .fault f
    | .ok data =>
      startReply data (push (.goto .awaitCmd) { s with vaddr := joinBytes b0 b1, vcount := b2, got := rest })
  | _ => exec .recv s

/-- The command loop: read one command byte and run its command; hand off when the session is no longer active (rule R221). -/
def commandLoop (s : State) : Host.Outcome State Fault Refusal :=
  if s.active = false then exec .handoff s
  else match s.got with
    | [] => exec .recv s
    | b :: rest => runEncoded .cmd [b] { s with cmd := b, got := rest }

/-- With nothing left to do, the state `seq` says what comes next (rule R220). -/
def advance (s : State) : Host.Outcome State Fault Refusal :=
  match s.seq with
  | .reset => if s.cfg.enable then entry s else exec .handoff s
  | .awaitCmd => commandLoop s
  | .uploadHdr => headerPhase s
  | .uploadBody => if s.got.length < bodyLength s.hdr then exec .recv s else bodyPhase s
  | .verify => verifyPhase s
  | .info => .next { s with seq := .awaitCmd }
  | .fuses => .next { s with seq := .awaitCmd }
  | .unknown => .next { s with seq := .awaitCmd }
  | .quit => exec .handoff { s with active := false }
  | .handedOff => .next s

/-- The sequencer's step. -/
def sequencerStep (s : State) : Host.Outcome State Fault Refusal :=
  match s.todo with
  | [] => advance s
  | t :: ts => runTask t { s with todo := ts }

/-- The receive agent's step (40_transport.md rule R132, 60_exceptions.md rules R270 to R272): a held handler goes on; else the
interrupt is taken where it is enabled. A disabled agent changes nothing (log entry 16). -/
def receiveStep (s : State) : Host.Outcome State Fault Refusal :=
  if s.held then .next (returnFromReceiveInterrupt s)
  else if receiveEnabled s then (if s.ivsel then exec .rxisr s else .refused .applicationVector)
  else .next s

/-- The step of the agent an event names. While an RXISR is held the sequencer does not go on (rule R324). -/
def agentStep (e : Event) (s : State) : Host.Outcome State Fault Refusal :=
  match e with
  | .sequencer => if s.held then .next s else sequencerStep s
  | .receive => receiveStep s
  | .transmitter => .next (transmitterStep s)
  | .flashEngine => .next (flashEngineStep s)
  | .peer b => .next (peerStep b s)
  | .peerTakes => .next s

/-- Which agent steps next: the script's choice, and a free one where the script says nothing (00_scope.md rule R14, log
entry 1). -/
def nextEvent (s : State) : Event :=
  match s.script with
  | e :: _ => e
  | [] => Config.freeEvent s.tick

/-- The choice is used up. -/
def afterChoice (s : State) : State :=
  match s.script with
  | _ :: es => { s with script := es }
  | [] => { s with tick := s.tick + 1 }

/-- The instruction an opcode-table word stands for, put where the sequencer takes its next task from, with the sequencer's
step the next one (log entry 17). -/
def placeTableWord (nbits w : Nat) (s : State) : State :=
  { s with
    todo := .fetch (tableSpace (tableBytes nbits w)) (tableBytes nbits w) :: s.todo
    script := .sequencer :: s.script
    held := false }

end Sys2Proof.Machine
end

