-- ==== Sys2Proof/Machine/Step.lean ====
section
/-! DEFINITION. One step of the machine: a step of exactly one agent (00_scope.md rule R14), under an admissible
configuration (rule R9). -/

namespace Sys2Proof.Machine

/-- One step. -/
def step (s : State) : Host.Outcome State Fault Refusal :=
  if s.cfg.Admissible then agentStep (nextEvent s) (afterChoice s) else .refused .inadmissibleConfig

/-- The state with an opcode-table word placed so that the next step fetches and runs it. -/
def State.withFetchWord (s : State) (nbits w : Nat) : State := placeTableWord nbits w s

end Sys2Proof.Machine
end

