-- ==== Sys2Proof/Safety.lean ====
section
/-! DEFINITION. What counts as a sound state and a safe run, in the terms the claims use: the invariants of the spec's prose,
the queue's content, the program image a staged page stands for, runs under a given order of agents, and the table of
sequencer transitions. -/

namespace Sys2Proof.Machine

/-! ### Runs -/

/-- A run in which the agents step in the given order (00_scope.md rule R14). -/
def State.plays (s : State) (es : List Event) : Host.Outcome State Fault Refusal :=
  Host.Core.run Sys2Proof.core es.length { s with script := es }

/-- `n` times a sequencer step followed by the transmitter's: a reply of `n` bytes goes out. -/
def sendRounds (n : Nat) : List Event := (List.replicate n [Event.sequencer, Event.transmitter]).flatten

/-- The order of agents in which one FLUSH runs to its end: each wait is ended by the flash engine
(43_flash_programmer.md rules R201, R210). -/
def flushEvents : List Event := [.sequencer, .flashEngine, .sequencer, .flashEngine, .sequencer]

/-- The run of `es`, in which a FLUSH is the next thing to be done and `ts` is left after it, ends exactly when that FLUSH
completes: whatever the order of agents is, `ts` alone is left at its end and at no moment before
(43_flash_programmer.md rule R201). -/
structure State.FlushEnds (s : State) (ts : List Task) (es : List Event) (t : State) : Prop where
  runs : s.plays es = .next t
  done : t.todo = ts
  notBefore : ∀ n < es.length, ∀ u, s.plays (es.take n) = .next u → u.todo ≠ ts

/-- The sequencer is to take the step, under an admissible configuration, and no RXISR holds it. -/
structure State.SequencerTurn (s : State) : Prop where
  admissible : s.cfg.Admissible
  chosen : nextEvent s = .sequencer
  notHeld : s.held = false

/-- The run has ended: control is the application's (00_scope.md rule R15). -/
structure State.Ended (s : State) : Prop where
  seq : s.seq = .handedOff
  todo : s.todo = []
  masked : s.I = false
  notHeld : s.held = false

/-! ### The receive queue -/

/-- The unread bytes, oldest first (40_transport.md rule R137). -/
def State.unread (s : State) : List Byte :=
  (List.range (s.cfg.rxCap - s.free)).map (fun k => s.rxbuf.getD ((s.tail + k) % s.cfg.rxCap) 0)

/-! ### The program image -/

/-- What the block intends program memory to hold at an address: the staged page over flash (42_page_buffer.md rule R180). -/
def State.image (s : State) (x : Nat) : Byte :=
  if s.dirty = true ∧ s.pageStart.toNat ≤ x ∧ x < s.pageStart.toNat + s.cfg.pageSize then
    s.pagebuf.getD (x - s.pageStart.toNat) 0
  else Memory.read s.flash x

/-- A memory image after a payload is written directly to it at an address, the running address wrapping modulo 65536
(rules R180, R190). -/
def writeImage (f : Nat → Byte) (a : Word16) : List Byte → Nat → Byte
  | [] => f
  | b :: bs => writeImage (fun x => if x = a.toNat then b else f x) (a + 1) bs

/-- A memory image after a sequence of such writes (rule R189). -/
def writeImages (f : Nat → Byte) : List (Word16 × List Byte) → Nat → Byte
  | [] => f
  | (a, p) :: cs => writeImages (writeImage f a p) cs

/-! ### The instructions that mask interrupts -/

/-- The instructions that can run a FLUSH (42_page_buffer.md rules R182, R186; 43_flash_programmer.md rule R201). -/
def flushes : Instr → Bool
  | .stage _ _ => true
  | .flushPending => true
  | .flush => true
  | .recData _ _ => true
  | .recEof _ _ => true
  | _ => false

/-- The instructions that write the staging buffer (42_page_buffer.md rule R182). -/
def stages : Instr → Bool
  | .stage _ _ => true
  | .recData _ _ => true
  | _ => false

/-- The instructions that write the interrupt flag or the stack of its saved values (10_state.md rules R25, R26). -/
def masks : Instr → Bool
  | .recv => true
  | .csEnter => true
  | .csLeave => true
  | .handoff => true
  | i => flushes i

/-! ### Invariants -/

/-- The relations between registers that the spec's prose states for every moment of a run. -/
structure State.Inv (s : State) : Prop where
  /-- 00_scope.md rule R9. -/
  admissible : s.cfg.Admissible
  /-- 10_state.md rule R31. -/
  rxbuf_length : s.rxbuf.length = s.cfg.rxCap
  /-- 40_transport.md rule R137. -/
  head_lt : s.head < s.cfg.rxCap
  /-- 40_transport.md rule R137. -/
  tail_lt : s.tail < s.cfg.rxCap
  /-- 40_transport.md rule R137. -/
  free_le : s.free ≤ s.cfg.rxCap
  /-- 40_transport.md rule R137, `(head - tail) mod RX_CAP = (RX_CAP - free) mod RX_CAP`, written without subtraction. -/
  ring : (s.head + s.free) % s.cfg.rxCap = s.tail
  /-- 10_state.md rule R36. -/
  rxHw_length : s.rxHw.length ≤ s.cfg.rxHwDepth
  /-- 10_state.md rule R38. -/
  pagebuf_length : s.pagebuf.length = s.cfg.pageSize
  /-- 10_state.md rule R39. -/
  pageStart_aligned : s.pageStart.toNat % s.cfg.pageSize = 0
  /-- 10_state.md rule R42. -/
  fill_length : s.fill.length = s.cfg.pageSize / 2
  /-- A staged page lies inside program memory: it was shadowed from it (42_page_buffer.md rule R183). -/
  staged_inside : s.dirty = true → s.pageStart.toNat + s.cfg.pageSize ≤ s.cfg.flashSize
  /-- The canonical form of program memory. -/
  flash_wf : Memory.wf s.flash
  /-- 10_state.md rule R40. -/
  flash_inside : ∀ c ∈ s.flash, c.1 < s.cfg.flashSize

/-- The read-while-write section is disabled only while FLUSH is under way (43_flash_programmer.md rule R204). -/
def State.RwwDisciplined (s : State) : Prop :=
  s.rwwEnabled = false → ∃ ts, s.todo = .flushProgram :: ts ∨ s.todo = .flushEnable :: ts

/-- The flow-control flag agrees with the last flow-control byte sent (40_transport.md rule R137). -/
def State.FlowAgrees (s : State) : Prop := s.paused = true ↔ s.flowOut.getLast? = some xoffByte

/-- How many open critical sections a task will leave (43_flash_programmer.md rule R207). -/
def sectionsLeftBy : Task → Nat
  | .run .csLeave => 1
  | .flushErase => 1
  | .flushProgram => 1
  | .flushEnable => 1
  | .retire => 1
  | .stageRest _ _ => 1
  | .run _ => 0
  | .fetch _ _ => 0
  | .goto _ => 0

/-- A task the block's own rules leave or may run: no bare CSENTER, no bare HANDOFF, no bytes placed from outside. -/
def ruleTask : Task → Bool
  | .run .csEnter => false
  | .run .handoff => false
  | .fetch _ _ => false
  | _ => true

/-- Critical sections are balanced: every open section is left by exactly one task still to be done, interrupts are masked
while one is open, and only the outermost can have saved a set flag (43_flash_programmer.md rules R206, R207;
70_reset_and_hazards.md rule R323). -/
structure State.SectionsBalanced (s : State) : Prop where
  tasks : ∀ t ∈ s.todo, ruleTask t = true
  depth : s.isave.length = (s.todo.map sectionsLeftBy).sum
  masked : s.isave ≠ [] → s.I = false
  inner : ∀ b ∈ s.isave.dropLast, b = false

/-- A task that can open a critical section (40_transport.md rule R134, 42_page_buffer.md rules R182, R186,
43_flash_programmer.md rule R201). -/
def opensSection : Task → Bool
  | .run .csLeave => false
  | .run i => masks i
  | .stageRest _ _ => true
  | _ => false

/-- How the interrupt flag stands, exactly: while the session is active it is set when no section is open and clear when one
is (44_command_sequencer.md rule R221, 70_reset_and_hazards.md rule R313), the outermost section saved a set flag, at most one
section is nested in it (10_state.md rule R26), and with no session active it is clear, with nothing open and nothing left to
do. The last three fields say what this rests on: the entry, and that what can open a section has none to be left after it. -/
structure State.MaskingExact (s : State) : Prop where
  saved : s.isave = [] ∨ s.isave = [true] ∨ s.isave = [false, true]
  enabled : s.active = true → (s.I = true ↔ s.isave = [])
  inactive : s.active = false → s.I = false ∧ s.isave = [] ∧ s.todo = [] ∧ (s.seq = .reset ∨ s.seq = .handedOff)
  entering : s.active = true → s.seq = .reset →
    s.todo = [.goto .awaitCmd] ∨ s.todo = [.run .ctlReady, .goto .awaitCmd]
  noReturn : .goto .reset ∉ s.todo
  nested : s.todo.Pairwise (fun t u => opensSection t = true → sectionsLeftBy u = 0)

/-! ### The sequencer's transitions -/

/-- The rows of the transition table (44_command_sequencer.md rule R220). -/
def transitions : List (SeqState × SeqState) :=
  [(.reset, .handedOff), (.reset, .awaitCmd), (.awaitCmd, .uploadHdr), (.awaitCmd, .verify), (.awaitCmd, .info),
   (.awaitCmd, .fuses), (.awaitCmd, .quit), (.awaitCmd, .unknown), (.uploadHdr, .uploadBody), (.uploadHdr, .awaitCmd),
   (.uploadBody, .uploadHdr), (.uploadBody, .awaitCmd), (.verify, .awaitCmd), (.info, .awaitCmd), (.fuses, .awaitCmd),
   (.unknown, .awaitCmd), (.quit, .handedOff)]

/-- An instruction whose meaning leaves `seq` as it is and leaves no `goto` behind. -/
def keepsSeq : Instr → Bool
  | .handoff => false
  | .cmdQuit => false
  | .cmdFuses => false
  | .cmdInfo => false
  | .cmdUpload => false
  | .cmdVerify => false
  | .cmdUnknown _ => false
  | .recData _ _ => false
  | .recEof _ _ => false
  | .recEsa _ _ => false
  | .recSsa _ _ => false
  | .recEla _ _ => false
  | .recSla _ _ => false
  | .recOther _ _ _ => false
  | _ => true

/-- A task that is no `goto` and leaves `seq` as it is. -/
def taskKeepsSeq : Task → Bool
  | .run i => keepsSeq i
  | .fetch _ _ => false
  | .goto _ => false
  | _ => true

/-- The sequencer's remaining work ends, if anywhere, in one transition of the table from the present state; the session is
active from entry to Quit (10_state.md rule R24); and a body is read only after a header of a DATA or END_OF_FILE record was
accepted (44_command_sequencer.md rule R224). -/
structure State.SeqDisciplined (s : State) : Prop where
  tasks : (∀ t ∈ s.todo, taskKeepsSeq t = true) ∨
    ∃ ts q, s.todo = ts ++ [.goto q] ∧ (∀ t ∈ ts, taskKeepsSeq t = true) ∧ (s.seq, q) ∈ transitions
  active : s.active = true ∨ s.seq = .handedOff ∨ (s.seq = .reset ∧ ∀ t ∈ s.todo, taskKeepsSeq t = true)
  decoded : s.seq = .uploadBody ∨ .goto .uploadBody ∈ s.todo → ∃ n t, decHdr s.hdr = .ok (n, t) ∧ (t = 0x00 ∨ t = 0x01)

/-! ### Entry -/

/-- The block starts once: before entry nothing can interrupt it and the channel is not paused, entry leaves only the ready
byte and the step to the command loop, and nothing leads back (70_reset_and_hazards.md rules R300, R302). -/
structure State.EntryOnce (s : State) : Prop where
  before : s.seq = .reset → s.todo = [] → s.I = false ∧ s.held = false ∧ s.paused = false
  during : s.seq = .reset → s.todo = [] ∨ s.todo = [.goto .awaitCmd] ∨ s.todo = [.run .ctlReady, .goto .awaitCmd]
  after : .goto .reset ∉ s.todo

/-- With ENABLE true the ready byte is the first byte sent: nothing has been sent and entry is still to come, or the first
byte sent is READY_BYTE (70_reset_and_hazards.md rule R303). -/
def State.ReadyFirst (s : State) : Prop :=
  s.cfg.enable = true →
    (s.seq = .reset ∧ s.todo = [] ∧ s.wireOut = [] ∧ s.I = false ∧ s.held = false ∧ s.txReady = true) ∨
    s.wireOut.head? = some s.cfg.readyByte

/-- While the receive interrupt is or may become enabled, the bootloader's vector table is in use (10_state.md rule R27). -/
def State.VectorDisciplined (s : State) : Prop := s.I = true ∨ true ∈ s.isave → s.ivsel = true

/-! ### The start of a command, and the terms of the decoder's claims -/

/-- The command loop is about to read the command byte `c`: it and `rest` are queued, nothing is in progress, the channel is
not paused and the transmit register is free (44_command_sequencer.md rule R221). -/
structure State.CommandReady (s : State) (c : Byte) (rest : List Byte) : Prop where
  inv : s.Inv
  notHeld : s.held = false
  todo : s.todo = []
  seq : s.seq = .awaitCmd
  active : s.active = true
  got : s.got = []
  queued : s.unread = c :: rest
  notPaused : s.paused = false
  txReady : s.txReady = true

/-- The sum of rule R97 of 30_encoding.md as a number, before it is taken modulo 256. -/
def recordTotal (r : HexRecord) : Nat :=
  r.byteCount.toNat + (hiByte r.address).toNat + (loByte r.address).toNat + r.recordType.toNat +
    (r.payload.map BitVec.toNat).sum + r.checksum.toNat

/-- The status byte of the table of 60_exceptions.md rule R266. A pair that is no field of a record has no row there. -/
def errorByte : BlockError → Byte
  | .framing => 0x80
  | .hexDigit .byteCount => 0xC0
  | .hexDigit .address => 0xC0
  | .hexDigit .recordType => 0xC0
  | .hexDigit .payload => 0xA0
  | .hexDigit .checksum => 0xA0
  | .hexDigit .pair => 0xA0
  | .checksum => 0xE0
  | .unknownCommand => 0x20
  | .notImplemented => 0x60

/-! ### What an instruction may write -/

/-- The instructions that write `seq` at once (44_command_sequencer.md rules R223 to R236). -/
def movesSeq : Instr → Bool
  | .handoff => true
  | i => spaceOf i == .cmd

/-- The instructions that compute a status byte at once (44_command_sequencer.md rules R228, R234, R235). -/
def answers : Instr → Bool
  | .cmdQuit => true
  | .cmdUnknown _ => true
  | .recEsa _ _ => true
  | .recSsa _ _ => true
  | .recEla _ _ => true
  | .recSla _ _ => true
  | .recOther _ _ _ => true
  | i => spaceOf i == .sts

/-- The decoder's operations (41_hex_decoder.md). -/
def decodes : Instr → Bool
  | .decbyte _ _ => true
  | .dechdr _ => true
  | .decrec _ _ => true
  | _ => false

/-- The instructions that write the flow-control flag (10_state.md rule R28). -/
def controlsFlow : Instr → Bool
  | .recv => true
  | .rxisr => true
  | .ctlXon => true
  | .ctlXoff => true
  | _ => false

end Sys2Proof.Machine
end

