-- ==== Sys2Proof/Certificates/Slice0/Obligations.lean ====
section
/-! DEFINITION. The statements for the provers, from the numbered rules of spec/. A statement whose docstring names a log entry
or a decision D<n> rests on it. -/

open Sys2Proof Sys2Proof.Machine

/-! ### Encodings (30_encoding.md) and the decoder (41_hex_decoder.md) -/

/-- Rules R91, R94, R101, R104, R112: decoding the encoding of a well-formed instruction gives it back, whatever follows.
READY_BYTE must differ from XON and XOFF for its own row. The OP operand layout is log entry 9's. -/
def Obligations.DecodeEncodeAgree : Prop :=
  ∀ (ready : Byte) (i : Instr) (rest : List Byte),
    WellFormed i = true → (i = .ctlReady → ready ≠ xonByte ∧ ready ≠ xoffByte) →
    decode ready (spaceOf i) (encode ready i ++ rest) = some (i, rest)

/-- The other direction: what is decoded is well formed, belongs to the space it was read in, and its encoding is the bytes
that were consumed. -/
def Obligations.EncodeDecodeAgree : Prop :=
  ∀ (ready : Byte) (sp : Space) (bs rest : List Byte) (i : Instr),
    decode ready sp bs = some (i, rest) → WellFormed i = true ∧ spaceOf i = sp ∧ bs = encode ready i ++ rest

/-- Words written out from the tables of rules R92, R94, R98, R102 to R104 and R112, and two that are unused. The operand
layout of the select codes, and that an unused code decodes to nothing, is log entry 9's; that the status byte 0x21, a detail
with another code than OK, decodes to nothing is log entry 20's. -/
def Obligations.WrittenOutWords : Prop :=
  ∀ ready : Byte,
    decode ready .op [0x00, 0x40] = some (.send 0x40, []) ∧
    decode ready .op [0x03, 0x42, 0x34] = some (.decbyte 0x42 0x34, []) ∧
    decode ready .op [0x06, 0x00, 0x7F, 0x03, 0x11, 0x22, 0x33] = some (.stage 0x007F [0x11, 0x22, 0x33], []) ∧
    decode ready .op [0x0B] = some (.handoff, []) ∧
    decode ready .op [0x0C] = none ∧
    decode ready .record
        [0x3A, 0x30, 0x34, 0x30, 0x30, 0x31, 0x30, 0x30, 0x30, 0x44, 0x45, 0x41, 0x44, 0x42, 0x45, 0x45, 0x46, 0x42, 0x34] =
      some (.recData 0x0010 [0xDE, 0xAD, 0xBE, 0xEF], []) ∧
    decode ready .record [0x3A, 0x30, 0x30, 0x30, 0x30, 0x30, 0x30, 0x30, 0x31, 0x46, 0x46] = some (.recEof 0 [], []) ∧
    decode ready .record [0x3A, 0x30, 0x32, 0x30, 0x30, 0x30, 0x30, 0x30, 0x32] =
      some (.recEsa 0x02 ⟨0x30, 0x30, 0x30, 0x30⟩, []) ∧
    decode ready .sts [0x03] = some (.okLineCommitted, []) ∧
    decode ready .sts [0xC0] = some (.stsErrDecode, []) ∧
    decode ready .sts [0x21] = none ∧
    decode ready .ctl [0x11] = some (.ctlXon, []) ∧
    decode ready .ctl [0x13] = some (.ctlXoff, [])

/-- Rule R92 (decision D22): the five letters and their next `seq`; rule R93: every other byte is an unknown command. -/
def Obligations.CommandMap : Prop :=
  ∀ (ready b : Byte) (rest : List Byte),
    (b = 0x71 → decode ready .cmd (b :: rest) = some (.cmdQuit, rest)) ∧
    (b = 0x66 → decode ready .cmd (b :: rest) = some (.cmdFuses, rest)) ∧
    (b = 0x69 → decode ready .cmd (b :: rest) = some (.cmdInfo, rest)) ∧
    (b = 0x75 → decode ready .cmd (b :: rest) = some (.cmdUpload, rest)) ∧
    (b = 0x76 → decode ready .cmd (b :: rest) = some (.cmdVerify, rest)) ∧
    (b ≠ 0x71 → b ≠ 0x66 → b ≠ 0x69 → b ≠ 0x75 → b ≠ 0x76 →
      decode ready .cmd (b :: rest) = some (.cmdUnknown b, rest)) ∧
    ∀ s : State,
      (∃ t, exec .cmdQuit s = .next t ∧ t.seq = .quit) ∧
      (∃ t, exec .cmdFuses s = .next t ∧ t.seq = .fuses) ∧
      (∃ t, exec .cmdInfo s = .next t ∧ t.seq = .info) ∧
      (∃ t, exec .cmdUpload s = .next t ∧ t.seq = .uploadHdr) ∧
      (∃ t, exec .cmdVerify s = .next t ∧ t.seq = .verify) ∧
      (∃ t, exec (.cmdUnknown b) s = .next t ∧ t.seq = .unknown)

/-- Rule R95: which characters are digits, and their values. -/
def Obligations.HexDigits : Prop :=
  ∀ c v : Byte,
    hexVal c = some v ↔
      (0x30 ≤ c.toNat ∧ c.toNat ≤ 0x39 ∧ v.toNat = c.toNat - 0x30) ∨
      (0x41 ≤ c.toNat ∧ c.toNat ≤ 0x46 ∧ v.toNat = c.toNat - 0x41 + 10)

/-- Rule R96: 8-bit fields, the 16-bit address field by digits and by bytes, and the payload as 8-bit fields in wire order. -/
def Obligations.FieldAssembly : Prop :=
  (∀ c1 c0 h1 h0 : Byte, hexVal c1 = some h1 → hexVal c0 = some h0 →
    ∃ b, decByte c1 c0 = some b ∧ b.toNat = 16 * h1.toNat + h0.toNat) ∧
  (∀ c3 c2 c1 c0 h3 h2 h1 h0 : Byte,
    hexVal c3 = some h3 → hexVal c2 = some h2 → hexVal c1 = some h1 → hexVal c0 = some h0 →
    ∃ a, dec16 c3 c2 c1 c0 = some a ∧
      a.toNat = 4096 * h3.toNat + 256 * h2.toNat + 16 * h1.toNat + h0.toNat ∧
      decByte c3 c2 = some (hiByte a) ∧ decByte c1 c0 = some (loByte a)) ∧
  ∀ (n : Nat) (cs p rest : List Byte), decPairs n cs = some (p, rest) →
    p.length = n ∧ ∀ k < n, decByte (cs.getD (2 * k) 0) (cs.getD (2 * k + 1) 0) = some (p.getD k 0)

/-- Rule R97: a record line is valid exactly when the sum of its decoded bytes is zero modulo 256, and the sender's formula. -/
def Obligations.ChecksumRule : Prop :=
  (∀ (r : HexRecord) (h : Header) (body : List Byte),
    r.payload.length = r.byteCount.toNat → headerOf (recordLine r) = some (h, body) →
    (recordTotal r % 256 = 0 → decRec h body = .ok r) ∧
    (recordTotal r % 256 ≠ 0 → decRec h body = .error .checksum)) ∧
  ∀ (t : Byte) (a : Word16) (p : List Byte), p.length ≤ 255 →
    (mkRecord t a p).checksum.toNat = (256 - recordTotal { mkRecord t a p with checksum := 0 } % 256) % 256

/-- Rule R167: a valid line re-encoded is the line. -/
def Obligations.RecordRoundTrip : Prop :=
  ∀ (h : Header) (body : List Byte) (r : HexRecord),
    body.length = bodyLength h → decRec h body = .ok r → recordLine r = headerChars h ++ body

/-- Rule R168: a valid record with another checksum byte fails with ChecksumError, with a checksum character that is no digit
with HexDigitError(checksum) before it, and DECREC commits nothing but that answer. -/
def Obligations.PerturbedChecksum : Prop :=
  ∀ (h : Header) (body : List Byte) (r : HexRecord),
    body.length = bodyLength h → decRec h body = .ok r →
    (∀ c : Byte, c ≠ r.checksum →
      decRec h (body.take (2 * r.byteCount.toNat) ++ hexPair c) = .error .checksum ∧
      ∀ s : State, exec (.decrec h (body.take (2 * r.byteCount.toNat) ++ hexPair c)) s =
        .next { s with res := .error .checksum }) ∧
    ∀ c1 c0 : Byte, decByte c1 c0 = none →
      decRec h (body.take (2 * r.byteCount.toNat) ++ [c1, c0]) = .error (.hexDigit .checksum)

/-- Rules R163, R164, R165 (decision D10): what DECHDR and DECREC answer, the earliest fault first. -/
def Obligations.DecoderErrorPrecedence : Prop :=
  ∀ (h : Header) (body : List Byte),
    (h.marker ≠ 0x3A → decHdr h = .error .framing ∧ decRec h body = .error .framing) ∧
    (h.marker = 0x3A → decByte h.n1 h.n0 = none →
      decHdr h = .error (.hexDigit .byteCount) ∧ decRec h body = .error (.hexDigit .byteCount)) ∧
    ∀ n : Byte, h.marker = 0x3A → decByte h.n1 h.n0 = some n →
      (decByte h.t1 h.t0 = none → decHdr h = .error (.hexDigit .recordType)) ∧
      (∀ t, decByte h.t1 h.t0 = some t → decHdr h = .ok (n, t)) ∧
      (body.length = 2 * n.toNat + 2 →
        (dec16 h.a3 h.a2 h.a1 h.a0 = none → decRec h body = .error (.hexDigit .address)) ∧
        ∀ a, dec16 h.a3 h.a2 h.a1 h.a0 = some a →
          (decByte h.t1 h.t0 = none → decRec h body = .error (.hexDigit .recordType)) ∧
          ∀ t, decByte h.t1 h.t0 = some t →
            ((∃ k < n.toNat, decByte (body.getD (2 * k) 0) (body.getD (2 * k + 1) 0) = none) →
              decRec h body = .error (.hexDigit .payload)) ∧
            ∀ p : List Byte, p.length = n.toNat →
              (∀ k < n.toNat, decByte (body.getD (2 * k) 0) (body.getD (2 * k + 1) 0) = some (p.getD k 0)) →
              (decByte (body.getD (2 * n.toNat) 0) (body.getD (2 * n.toNat + 1) 0) = none →
                decRec h body = .error (.hexDigit .checksum)) ∧
              ∀ c, decByte (body.getD (2 * n.toNat) 0) (body.getD (2 * n.toNat + 1) 0) = some c →
                (recordTotal ⟨n, a, t, p, c⟩ % 256 ≠ 0 → decRec h body = .error .checksum) ∧
                (recordTotal ⟨n, a, t, p, c⟩ % 256 = 0 → decRec h body = .ok ⟨n, a, t, p, c⟩))

/-! ### Steps -/

/-- Log entries 2 and 17: where bytes in hand, the next task, or the command byte decode to a well-formed instruction, the
sequencer's step is exec of it, after the choice of the agent is used up and the task or the byte is taken. -/
def Obligations.StepRunsDecodedInstruction : Prop :=
  ∀ s : State, s.SequencerTurn →
    (∀ (sp : Space) (bytes rest : List Byte) (ts : List Task) (i : Instr), s.todo = .fetch sp bytes :: ts →
      decode s.cfg.readyByte sp bytes = some (i, rest) → WellFormed i = true →
      step s = exec i { afterChoice s with todo := ts }) ∧
    (∀ (i : Instr) (ts : List Task), s.todo = .run i :: ts → step s = exec i { afterChoice s with todo := ts }) ∧
    (∀ (b : Byte) (got rest : List Byte) (i : Instr), s.todo = [] → s.seq = .awaitCmd → s.active = true →
      s.got = b :: got → decode s.cfg.readyByte .cmd [b] = some (i, rest) → WellFormed i = true →
      step s = exec i { afterChoice s with cmd := b, got := got })

/-- Log entries 10 and 17: a placed opcode-table word runs as the next step. -/
def Obligations.TableWordRuns : Prop :=
  ∀ (s : State) (nbits w : Nat) (i : Instr), s.cfg.Admissible → decodeTableWord nbits w = some i →
    step (s.withFetchWord nbits w) = exec i { s with held := false }

/-- Rules R13, R312; a wait as a task is log entry 2's, a status or control row that waits log entry 11's, the held RXISR that
holds the sequencer log entry 3's (rules R132, R324). No order of agents that leaves out the one agent a wait is for gets past the wait: any byte's sending on
tx_ready, that of XOFF inside a held RXISR too, RECV on free < RX_CAP, FLUSH three times on spm_busy. -/
def Obligations.WaitsNeverPass : Prop :=
  ∀ (s t : State) (es : List Event) (ts : List Task), s.plays es = .next t →
    (∀ i : Instr, (∃ b, i = .send b) ∨ spaceOf i = .sts ∨ spaceOf i = .ctl →
      s.todo = .run i :: ts → s.txReady = false → Event.transmitter ∉ es →
      t.todo = s.todo ∧ t.txReady = false ∧ t.wireOut = s.wireOut) ∧
    (s.held = true → s.free ≤ s.cfg.xoffFree → s.paused = false → s.txReady = false → Event.transmitter ∉ es →
      t.held = true ∧ t.todo = s.todo ∧ t.seq = s.seq ∧ t.wireOut = s.wireOut) ∧
    (s.todo = .run .recv :: ts → s.free = s.cfg.rxCap → Event.receive ∉ es →
      t.todo = s.todo ∧ t.free = s.free ∧ t.got = s.got) ∧
    (∀ k : Task, k = .flushErase ∨ k = .flushProgram ∨ k = .flushEnable →
      s.todo = k :: ts → s.spmBusy = true → Event.flashEngine ∉ es →
      t.todo = s.todo ∧ t.spmBusy = true ∧ t.flash = s.flash ∧ t.isave = s.isave)

/-! ### Transport (40_transport.md) -/

/-- Rule R130 (decision D5): SEND emits one byte when the register is free, else it waits with nothing changed. -/
def Obligations.SendCompletes : Prop :=
  ∀ (b : Byte) (s : State),
    (s.txReady = true → exec (.send b) s = .next { s with txReady := false, wireOut := s.wireOut ++ [b] }) ∧
    (s.txReady = false → exec (.send b) s = .next { s with todo := .run (.send b) :: s.todo })

/-- Rules R131, R134: RECV returns the byte at `tail`, frees its slot, sends XON once when it is due, and restores `I`; held at
Tx(XON) its section stays open; with nothing queued it waits. -/
def Obligations.RecvCompletes : Prop :=
  ∀ s : State,
    (s.free < s.cfg.rxCap → ¬(s.paused = true ∧ s.cfg.xonFree ≤ s.free + 1) →
      exec .recv s = .next { s with
        got := s.got ++ [s.rxbuf.getD s.tail 0], tail := (s.tail + 1) % s.cfg.rxCap, free := s.free + 1 }) ∧
    (s.free < s.cfg.rxCap → s.paused = true → s.cfg.xonFree ≤ s.free + 1 → s.txReady = true →
      exec .recv s = .next { s with
        got := s.got ++ [s.rxbuf.getD s.tail 0], tail := (s.tail + 1) % s.cfg.rxCap, free := s.free + 1,
        paused := false, txReady := false, wireOut := s.wireOut ++ [0x11], flowOut := s.flowOut ++ [0x11] }) ∧
    (s.free < s.cfg.rxCap → s.paused = true → s.cfg.xonFree ≤ s.free + 1 → s.txReady = false →
      exec .recv s = .next { s with
        got := s.got ++ [s.rxbuf.getD s.tail 0], tail := (s.tail + 1) % s.cfg.rxCap, free := s.free + 1,
        I := false, isave := s.I :: s.isave, todo := .run .ctlXon :: .run .csLeave :: s.todo }) ∧
    (s.cfg.rxCap ≤ s.free → exec .recv s = .next { s with todo := .run .recv :: s.todo })

/-- Rules R131, R132, R133: RXISR stores the oldest byte of the receiver, over the oldest unread one when the queue is full,
and sends XOFF when it is due; while the transmit register is busy it is held there (log entry 3). Where it is not enabled it
waits (log entry 23). -/
def Obligations.RxisrCompletes : Prop :=
  ∀ s : State,
    (∀ (b : Byte) (bs : List Byte) (u : State), s.I = true → s.rxHw = b :: bs →
      (s.free = 0 → u = { s with
        rxHw := bs, rxbuf := s.rxbuf.set s.head b, head := (s.head + 1) % s.cfg.rxCap,
        tail := (s.tail + 1) % s.cfg.rxCap }) →
      (s.free ≠ 0 → u = { s with
        rxHw := bs, rxbuf := s.rxbuf.set s.head b, head := (s.head + 1) % s.cfg.rxCap, free := s.free - 1 }) →
      (¬(u.free ≤ s.cfg.xoffFree ∧ s.paused = false) → exec .rxisr s = .next { u with held := false }) ∧
      (u.free ≤ s.cfg.xoffFree → s.paused = false → s.txReady = true →
        exec .rxisr s = .next { u with
          held := false, paused := true, txReady := false, wireOut := s.wireOut ++ [0x13],
          flowOut := s.flowOut ++ [0x13] }) ∧
      (u.free ≤ s.cfg.xoffFree → s.paused = false → s.txReady = false →
        exec .rxisr s = .next { u with held := true })) ∧
    (s.I = false ∨ s.rxHw = [] → exec .rxisr s = .next { s with todo := .run .rxisr :: s.todo })

/-- Rule R133 (decision D3): on a full queue the new byte goes to `head`, which is the oldest unread byte's slot, both indices
advance, `free` stays 0, and the second-oldest byte is the oldest. -/
def Obligations.OverrunOverwritesOldest : Prop :=
  ∀ (s t : State) (b : Byte) (bs : List Byte),
    s.Inv → s.I = true → s.rxHw = b :: bs → s.free = 0 → exec .rxisr s = .next t →
    s.head = s.tail ∧ t.rxbuf = s.rxbuf.set s.tail b ∧ t.rxbuf.getD s.tail 0 = b ∧
    t.head = (s.head + 1) % s.cfg.rxCap ∧ t.tail = (s.tail + 1) % s.cfg.rxCap ∧ t.free = 0 ∧
    s.unread.length = s.cfg.rxCap ∧ t.unread = s.unread.tail ++ [b]

/-- Rule R137: the queue is first in, first out: RXISR with room appends to the unread bytes, RECV returns the oldest. -/
def Obligations.QueueIsFirstInFirstOut : Prop :=
  ∀ s : State, s.Inv →
    (∀ (b : Byte) (bs : List Byte), s.I = true → s.rxHw = b :: bs → s.free ≠ 0 →
      ∃ t, exec .rxisr s = .next t ∧ t.unread = s.unread ++ [b] ∧ t.rxHw = bs) ∧
    (s.free < s.cfg.rxCap →
      ∃ (t : State) (b : Byte), exec .recv s = .next t ∧ s.unread = b :: t.unread ∧ t.got = s.got ++ [b]) ∧
    s.free + s.unread.length = s.cfg.rxCap

/-- Rules R270, R272, R324: the receive agent steps exactly when the interrupt is pending and `I` is set; a held handler goes
on when the register is free, and the sequencer is held with it (log entry 3). -/
def Obligations.ReceiveAgentMasking : Prop :=
  ∀ s : State, s.cfg.Admissible →
    (nextEvent s = .receive → s.held = false → s.I = false ∨ s.rxHw = [] → step s = .next (afterChoice s)) ∧
    (nextEvent s = .receive → s.held = false → s.I = true → s.rxHw ≠ [] → s.ivsel = true →
      step s = exec .rxisr (afterChoice s)) ∧
    (nextEvent s = .receive → s.held = true → s.free ≤ s.cfg.xoffFree → s.paused = false → s.txReady = true →
      step s = .next { afterChoice s with
        held := false, paused := true, txReady := false, wireOut := s.wireOut ++ [0x13],
        flowOut := s.flowOut ++ [0x13] }) ∧
    (nextEvent s = .receive → s.held = true → s.free ≤ s.cfg.xoffFree → s.paused = false → s.txReady = false →
      step s = .next (afterChoice s)) ∧
    (nextEvent s = .sequencer → s.held = true → step s = .next (afterChoice s))

/-- Rules R138, R139, R210: the steps of the transmitter, the peer and the flash engine. -/
def Obligations.HardwareAgentSteps : Prop :=
  ∀ s : State, s.cfg.Admissible →
    (nextEvent s = .transmitter → step s = .next { afterChoice s with txReady := true }) ∧
    (nextEvent s = .flashEngine → step s = .next { afterChoice s with spmBusy := false }) ∧
    (∀ b : Byte, nextEvent s = .peer b → s.rxHw.length < s.cfg.rxHwDepth →
      step s = .next { afterChoice s with wireIn := s.wireIn ++ [b], rxHw := s.rxHw ++ [b] }) ∧
    (∀ b : Byte, nextEvent s = .peer b → s.cfg.rxHwDepth ≤ s.rxHw.length →
      step s = .next { afterChoice s with wireIn := s.wireIn ++ [b] }) ∧
    (nextEvent s = .peerTakes → step s = .next (afterChoice s))

/-- Rules R104, R132, R134, R303 as instructions (log entry 11): the control byte is sent, and `paused` follows XON and XOFF;
each waits for the transmit register. -/
def Obligations.ControlBytesComplete : Prop :=
  ∀ s : State,
    (s.txReady = true →
      exec .ctlXon s = .next { s with
        txReady := false, wireOut := s.wireOut ++ [0x11], paused := false, flowOut := s.flowOut ++ [0x11] } ∧
      exec .ctlXoff s = .next { s with
        txReady := false, wireOut := s.wireOut ++ [0x13], paused := true, flowOut := s.flowOut ++ [0x13] } ∧
      exec .ctlReady s = .next { s with txReady := false, wireOut := s.wireOut ++ [s.cfg.readyByte] }) ∧
    (s.txReady = false →
      exec .ctlXon s = .next { s with todo := .run .ctlXon :: s.todo } ∧
      exec .ctlXoff s = .next { s with todo := .run .ctlXoff :: s.todo } ∧
      exec .ctlReady s = .next { s with todo := .run .ctlReady :: s.todo })

/-! ### Decoder operations -/

/-- Rules R161, R163, R164: the decoder's operations answer their result and change nothing else. The field of DECBYTE's own
error is log entry 14's. -/
def Obligations.DecoderOperationsComplete : Prop :=
  ∀ (s : State) (c1 c0 : Byte) (h : Header) (body : List Byte),
    (∀ b, decByte c1 c0 = some b → exec (.decbyte c1 c0) s = .next { s with res := .byte b }) ∧
    (decByte c1 c0 = none → exec (.decbyte c1 c0) s = .next { s with res := .error (.hexDigit .pair) }) ∧
    (∀ n t, decHdr h = .ok (n, t) → exec (.dechdr h) s = .next { s with res := .header n t }) ∧
    (∀ e, decHdr h = .error e → exec (.dechdr h) s = .next { s with res := .error e }) ∧
    (∀ r, decRec h body = .ok r → exec (.decrec h body) s = .next { s with res := .record r }) ∧
    (∀ e, decRec h body = .error e → exec (.decrec h body) s = .next { s with res := .error e })

/-! ### Page buffer (42_page_buffer.md) -/

/-- Rules R181, R182, R183: a payload that stays on one page, staged there or on a clean buffer, goes to its offset of the
page; a clean buffer is first the copy of the page in flash, a staged page keeps its other bytes; no flush. The DATA record
does the same and leaves its reply and the way back to the header to be done (rule R226). Rules R74, R76 (decision D20): on a
clean buffer the copy of a page at or above FLASH_SIZE faults, and so does any copy with the section disabled, which is tested
first (log entry 13). -/
def Obligations.StageWithinOnePage : Prop :=
  (∀ (s : State) (a base : Word16) (p : List Byte),
    s.Inv → p ≠ [] → a.toNat < s.cfg.flashSize → a.toNat % s.cfg.pageSize + p.length ≤ s.cfg.pageSize →
    base.toNat = a.toNat - a.toNat % s.cfg.pageSize →
    (s.dirty = true → s.pageStart = base) → (s.dirty = false → s.rwwEnabled = true) →
    ∃ pb : List Byte,
      exec (.stage a p) s = .next { s with pageStart := base, pagebuf := pb, dirty := true } ∧
      exec (.recData a p) s = .next { s with
        pageStart := base, pagebuf := pb, dirty := true,
        todo := .run .okLineCommitted :: .goto .uploadHdr :: s.todo } ∧
      pb.length = s.cfg.pageSize ∧
      ∀ k < s.cfg.pageSize, pb.getD k 0 =
        if a.toNat % s.cfg.pageSize ≤ k ∧ k < a.toNat % s.cfg.pageSize + p.length then
          p.getD (k - a.toNat % s.cfg.pageSize) 0
        else if s.dirty then s.pagebuf.getD k 0
        else Memory.read s.flash (base.toNat + k)) ∧
  ∀ (s : State) (a : Word16) (p : List Byte), s.cfg.Admissible → s.dirty = false → p ≠ [] →
    (s.rwwEnabled = true → s.cfg.flashSize ≤ a.toNat →
      exec (.stage a p) s = .fault .flashAddressOutOfRange ∧ exec (.recData a p) s = .fault .flashAddressOutOfRange) ∧
    (s.rwwEnabled = false →
      exec (.stage a p) s = .fault .flashReadWhileBusy ∧ exec (.recData a p) s = .fault .flashReadWhileBusy)

/-- Rule R188 (decision D32): an empty payload does nothing. Rule R185 (decision D17): a byte on another page than the staged
one first flushes the staged page, and the loop goes on afterwards. -/
def Obligations.StageEmptyAndFlushTrigger : Prop :=
  ∀ (s : State) (a : Word16),
    exec (.stage a []) s = .next s ∧
    exec (.recData a []) s = .next { s with todo := .run .okLineCommitted :: .goto .uploadHdr :: s.todo } ∧
    ∀ (b : Byte) (bs : List Byte), s.dirty = true →
      a.toNat < s.pageStart.toNat ∨ s.pageStart.toNat + s.cfg.pageSize ≤ a.toNat →
      exec (.stage a (b :: bs)) s =
        exec .flush { s with I := false, isave := s.I :: s.isave, todo := .stageRest a (b :: bs) :: s.todo }

/-- Rules R180, R182, R184: whatever is staged and however the payload lies across pages, STAGE with the flash engine's steps
it waits for runs to its end, and what the block then intends program memory to hold is what it intended before with the
payload written over it. Interrupt state is restored and nothing but the page buffer and the flash state is written. Addresses
lie below the partition boundary, because a flush above it is a fault (rule R75). -/
def Obligations.StageOverlaysTheImage : Prop :=
  ∀ (s : State) (a : Word16) (p : List Byte) (ts : List Task),
    s.Inv → s.held = false → s.rwwEnabled = true → s.todo = .run (.stage a p) :: ts →
    (∀ k < p.length, (a.toNat + k) % 65536 < s.cfg.bootStart.toNat) →
    (s.dirty = true → s.pageStart.toNat < s.cfg.bootStart.toNat) →
    ∃ (es : List Event) (t : State),
      (∀ e ∈ es, e = .sequencer ∨ e = .flashEngine) ∧ s.plays es = .next t ∧
      (∀ x, t.image x = writeImage s.image a p x) ∧ (t.spmBusy = true → s.spmBusy = true) ∧
      t = { s with
        script := [], todo := ts, pagebuf := t.pagebuf, pageStart := t.pageStart, dirty := t.dirty, flash := t.flash,
        fill := t.fill, spmBusy := t.spmBusy }

/-- Rule R189: any sequence of STAGE calls, with addresses in any order and chunked in any way, followed by FLUSHPENDING,
leaves in program memory what writing them directly to the image leaves. -/
def Obligations.StagesThenFlushPending : Prop :=
  ∀ (s : State) (calls : List (Word16 × List Byte)),
    s.Inv → s.held = false → s.rwwEnabled = true →
    s.todo = calls.map (fun c => .run (.stage c.1 c.2)) ++ [.run .flushPending] →
    (∀ c ∈ calls, ∀ k < c.2.length, (c.1.toNat + k) % 65536 < s.cfg.bootStart.toNat) →
    (s.dirty = true → s.pageStart.toNat < s.cfg.bootStart.toNat) →
    ∃ (es : List Event) (t : State),
      (∀ e ∈ es, e = .sequencer ∨ e = .flashEngine) ∧ s.plays es = .next t ∧ t.todo = [] ∧ t.dirty = false ∧
      t.I = s.I ∧ t.isave = s.isave ∧ ∀ x, Memory.read t.flash x = writeImages s.image calls x

/-- Rule R186: with no page staged FLUSHPENDING does nothing, so the second of two does nothing; with one staged it flushes and
retires it. -/
def Obligations.FlushPendingWritesThePage : Prop :=
  ∀ s : State,
    (s.dirty = false → exec .flushPending s = .next s) ∧
    ∀ ts : List Task, s.Inv → s.held = false → s.spmBusy = false → s.dirty = true →
      s.pageStart.toNat < s.cfg.bootStart.toNat → s.todo = .run .flushPending :: ts →
      ∃ t : State, s.plays (flushEvents ++ [.sequencer]) = .next t ∧
        t = { s with
          script := [], todo := ts, dirty := false, flash := t.flash, fill := t.fill, rwwEnabled := true } ∧
        ∀ x, Memory.read t.flash x =
          if s.pageStart.toNat ≤ x ∧ x < s.pageStart.toNat + s.cfg.pageSize then s.pagebuf.getD (x - s.pageStart.toNat) 0
          else Memory.read s.flash x

/-! ### Flash programmer (43_flash_programmer.md) -/

/-- Rules R201, R202: what FLUSH does up to its first wait that does not pass at once, and where it faults (20_memory.md rules
R74, R75; decision D20; the place of the fault is log entry 13's). FLUSHPENDING with a page staged begins with it. -/
def Obligations.FlushStarts : Prop :=
  ∀ s : State,
    (s.spmBusy = true →
      exec .flush s = .next { s with I := false, isave := s.I :: s.isave, todo := .flushErase :: s.todo }) ∧
    (s.spmBusy = false → s.pageStart.toNat < s.cfg.flashSize → s.pageStart.toNat < s.cfg.bootStart.toNat →
      exec .flush s = .next { s with
        I := false, isave := s.I :: s.isave, spmBusy := true, rwwEnabled := false,
        flash := Memory.writeBytes s.flash s.pageStart.toNat (List.replicate s.cfg.pageSize 0xFF),
        todo := .flushProgram :: s.todo }) ∧
    (s.spmBusy = false → s.cfg.flashSize ≤ s.pageStart.toNat → exec .flush s = .fault .flashAddressOutOfRange) ∧
    (s.spmBusy = false → s.pageStart.toNat < s.cfg.flashSize → s.cfg.bootStart.toNat ≤ s.pageStart.toNat →
      exec .flush s = .fault .flashWriteToBootSection) ∧
    (s.dirty = true →
      exec .flushPending s =
        exec .flush { s with I := false, isave := s.I :: s.isave, todo := .retire :: s.todo })

/-- Rule R200, for a page below the partition boundary (at or above it FLUSH faults, rule R75): in every order of agents in
which FLUSH completes, the page in flash is then the staging buffer, no other byte has changed, the port is free, the section
readable and the interrupt state as before. It completes in the order `flushEvents`, or in that order after a wait for an
operation in progress, and then nothing else has changed at all. Log entries 2 and 18 say where FLUSH is interrupted. -/
def Obligations.FlushContract : Prop :=
  ∀ (s : State) (ts : List Task), s.Inv → s.todo = .run .flush :: ts → s.pageStart.toNat < s.cfg.bootStart.toNat →
    (∀ (es : List Event) (t : State), s.FlushEnds ts es t →
      t.spmBusy = false ∧ t.rwwEnabled = true ∧ t.I = s.I ∧ t.isave = s.isave ∧ t.seq = s.seq ∧
      t.pageStart = s.pageStart ∧ t.pagebuf = s.pagebuf ∧ t.dirty = s.dirty ∧
      ∀ x, Memory.read t.flash x =
        if s.pageStart.toNat ≤ x ∧ x < s.pageStart.toNat + s.cfg.pageSize then s.pagebuf.getD (x - s.pageStart.toNat) 0
        else Memory.read s.flash x) ∧
    (s.held = false →
      ∃ t : State,
        (s.spmBusy = false → s.FlushEnds ts flushEvents t) ∧
        (s.spmBusy = true → s.FlushEnds ts ([.sequencer, .flashEngine] ++ flushEvents) t) ∧
        t = { s with
          script := [], todo := ts, flash := t.flash, fill := t.fill, spmBusy := false, rwwEnabled := true })

/-- Rule R205, for a page below the partition boundary: in every order of agents in which two FLUSHes in a row complete, one
after the other, the second leaves every byte of flash as the first left it; and there is such an order. Log entries 2 and 18
say where a FLUSH is interrupted. -/
def Obligations.FlushTwice : Prop :=
  ∀ (s : State) (ts : List Task), s.Inv → s.pageStart.toNat < s.cfg.bootStart.toNat →
    s.todo = .run .flush :: .run .flush :: ts →
    (∀ (es fs : List Event) (t u : State), s.FlushEnds (.run .flush :: ts) es t → t.FlushEnds ts fs u →
      ∀ x, Memory.read u.flash x = Memory.read t.flash x) ∧
    (s.held = false → ∃ (es fs : List Event) (t u : State), s.FlushEnds (.run .flush :: ts) es t ∧ t.FlushEnds ts fs u)

/-- Rules R202, R203, R204, R208: the primitives of the self-programming port on a free port, and the fault on a busy one. -/
def Obligations.EraseAndProgram : Prop :=
  ∀ (s : State) (a : Word16), s.cfg.Admissible → Memory.wf s.flash →
    a.toNat % s.cfg.pageSize = 0 → a.toNat < s.cfg.flashSize → a.toNat < s.cfg.bootStart.toNat →
    (s.spmBusy = false →
      (∃ t : State, flashErase a s = .ok t ∧
        t = { s with spmBusy := true, rwwEnabled := false, flash := t.flash } ∧
        ∀ x, Memory.read t.flash x =
          if a.toNat ≤ x ∧ x < a.toNat + s.cfg.pageSize then 0xFF else Memory.read s.flash x) ∧
      (∃ t : State, flashProgram a s = .ok t ∧
        t = { s with spmBusy := true, rwwEnabled := false, flash := t.flash } ∧
        (∀ j < s.cfg.pageSize / 2,
          Memory.read t.flash (a.toNat + 2 * j) =
            Memory.read s.flash (a.toNat + 2 * j) &&& loByte (s.fill.getD j 0) ∧
          Memory.read t.flash (a.toNat + 2 * j + 1) =
            Memory.read s.flash (a.toNat + 2 * j + 1) &&& hiByte (s.fill.getD j 0)) ∧
        ∀ x, x < a.toNat ∨ a.toNat + s.cfg.pageSize ≤ x → Memory.read t.flash x = Memory.read s.flash x) ∧
      (∀ (x : Nat) (w : Word16),
        flashFill x w s = .ok { s with fill := s.fill.set ((x % s.cfg.pageSize) / 2) w }) ∧
      flashRwwEnable s = .ok { s with rwwEnabled := true }) ∧
    (s.spmBusy = true →
      flashErase a s = .error .flashPortBusy ∧ flashProgram a s = .error .flashPortBusy ∧
      (∀ (x : Nat) (w : Word16), flashFill x w s = .error .flashPortBusy) ∧
      flashRwwEnable s = .error .flashPortBusy)

/-- Rules R206, R207: CSENTER saves and clears `I`, CSLEAVE restores it, so that leaving what was entered gives the state
back; a CSLEAVE with nothing saved is refused. -/
def Obligations.CriticalSections : Prop :=
  ∀ s : State,
    exec .csEnter s = .next { s with I := false, isave := s.I :: s.isave } ∧
    (∀ (b : Bool) (l : List Bool), s.isave = b :: l → exec .csLeave s = .next { s with I := b, isave := l }) ∧
    (s.isave = [] → exec .csLeave s = .refused .csLeaveUnopened) ∧
    ∀ t : State, exec .csEnter s = .next t → exec .csLeave t = .next s

/-! ### Command sequencer (44_command_sequencer.md) -/

/-- Rule R236: HANDOFF masks interrupts, selects the application's vector table and gives control away; nothing is left to
do. -/
def Obligations.HandoffCompletes : Prop :=
  ∀ s : State, exec .handoff s = .next { s with I := false, ivsel := false, seq := .handedOff, todo := [] }

/-- Rules R130, R222, R223, R230, R232 to R235: the step in which a command byte is dispatched. With the transmit register free
the first byte of the reply goes out in it (log entry 18); with the register busy nothing goes out and the whole reply is left
to be sent, in order. -/
def Obligations.CommandsComplete : Prop :=
  ∀ (s : State) (c : Byte),
    exec .cmdUpload s = .next { s with seq := .uploadHdr } ∧
    exec .cmdVerify s = .next { s with seq := .verify } ∧
    (s.txReady = true →
      exec .cmdInfo s = .next { s with
        seq := .info, txReady := false, wireOut := s.wireOut ++ [BitVec.ofNat 8 s.cfg.version.length],
        todo := (s.cfg.version ++ [2, loByte s.cfg.bootStart, hiByte s.cfg.bootStart]).map (fun v => .run (.send v)) ++
          s.todo } ∧
      exec .cmdFuses s = .next { s with
        seq := .fuses, txReady := false, wireOut := s.wireOut ++ [s.cfg.fuses.f0],
        todo := .run (.send s.cfg.fuses.f1) :: .run (.send s.cfg.fuses.f2) :: .run (.send s.cfg.fuses.f3) :: s.todo } ∧
      exec .cmdQuit s = .next { s with
        seq := .quit, reply := 0x40, txReady := false, wireOut := s.wireOut ++ [0x40] } ∧
      exec (.cmdUnknown c) s = .next { s with
        seq := .unknown, reply := 0x20, txReady := false, wireOut := s.wireOut ++ [0x20],
        todo := .run (.send c) :: s.todo }) ∧
    (s.txReady = false →
      exec .cmdInfo s = .next { s with
        seq := .info,
        todo := (BitVec.ofNat 8 s.cfg.version.length :: s.cfg.version ++
          [2, loByte s.cfg.bootStart, hiByte s.cfg.bootStart]).map (fun v => .run (.send v)) ++ s.todo } ∧
      exec .cmdFuses s = .next { s with
        seq := .fuses,
        todo := .run (.send s.cfg.fuses.f0) :: .run (.send s.cfg.fuses.f1) :: .run (.send s.cfg.fuses.f2) ::
          .run (.send s.cfg.fuses.f3) :: s.todo } ∧
      exec .cmdQuit s = .next { s with seq := .quit, reply := 0x40, todo := .run .stsQuitting :: s.todo } ∧
      exec (.cmdUnknown c) s = .next { s with
        seq := .unknown, reply := 0x20, todo := .run .stsUnknownCommand :: .run (.send c) :: s.todo })

/-- Rules R105, R106, R230 (decision D27): the Verify command and its three request bytes, read from the queue, are answered
with exactly the bytes of program memory at the request's address, a zero count with nothing, and the loop is back at
AWAIT_CMD with no other state written. Rules R74, R76 (decision D20): a request with an address at or above FLASH_SIZE, or any
request with the section disabled, which is tested first (log entry 13), faults once it is read, with nothing sent. -/
def Obligations.VerifyReply : Prop :=
  ∀ (s : State) (b0 b1 b2 : Byte) (rest : List Byte),
    s.CommandReady 0x76 (b0 :: b1 :: b2 :: rest) →
    (s.rwwEnabled = true →
      (∀ k < b2.toNat, (256 * b0.toNat + b1.toNat + k) % 65536 < s.cfg.flashSize) →
      ∃ t : State,
        s.plays (List.replicate 5 .sequencer ++ sendRounds (max b2.toNat 1) ++ [.sequencer]) = .next t ∧
        t.unread = rest ∧
        t = { s with
          script := [], cmd := 0x76, vaddr := BitVec.ofNat 16 (256 * b0.toNat + b1.toNat), vcount := b2,
          tail := t.tail, free := s.free + 4,
          wireOut := s.wireOut ++
            (List.range b2.toNat).map (fun k => Memory.read s.flash ((256 * b0.toNat + b1.toNat + k) % 65536)) }) ∧
    ∃ u : State, s.plays (List.replicate 5 .sequencer) = .next u ∧ u.wireOut = s.wireOut ∧ u.got = [b0, b1, b2] ∧
      (s.rwwEnabled = true →
        (∃ k < b2.toNat, s.cfg.flashSize ≤ (256 * b0.toNat + b1.toNat + k) % 65536) →
        u.plays [.sequencer] = .fault .flashAddressOutOfRange ∧
        s.plays (List.replicate 6 .sequencer) = .fault .flashAddressOutOfRange) ∧
      (s.rwwEnabled = false →
        u.plays [.sequencer] = .fault .flashReadWhileBusy ∧
        s.plays (List.replicate 6 .sequencer) = .fault .flashReadWhileBusy)

/-- Rules R105, R106, R230 (decision D27): in VERIFY the three request bytes are read first; then program memory is read whole
before the first byte is sent, that first byte going out in the same step (log entry 18) or, with the transmit register busy,
being left to be sent before the others. When the read faults (rules R74, R76) is log entry 13's. -/
def Obligations.VerifyPhase : Prop :=
  ∀ s : State, s.SequencerTurn → s.todo = [] → s.seq = .verify →
    (s.got.length < 3 → step s = exec .recv (afterChoice s)) ∧
    ∀ (b0 b1 b2 : Byte) (rest data : List Byte) (u : State), s.got = b0 :: b1 :: b2 :: rest →
      data = (List.range b2.toNat).map (fun k => Memory.read s.flash ((256 * b0.toNat + b1.toNat + k) % 65536)) →
      u = { afterChoice s with vaddr := BitVec.ofNat 16 (256 * b0.toNat + b1.toNat), vcount := b2, got := rest } →
      (s.rwwEnabled = false → step s = .fault .flashReadWhileBusy) ∧
      (s.rwwEnabled = true → (∃ k < b2.toNat, s.cfg.flashSize ≤ (256 * b0.toNat + b1.toNat + k) % 65536) →
        step s = .fault .flashAddressOutOfRange) ∧
      (s.rwwEnabled = true → (∀ k < b2.toNat, (256 * b0.toNat + b1.toNat + k) % 65536 < s.cfg.flashSize) →
        (b2 = 0 → step s = .next { u with todo := [.goto .awaitCmd] }) ∧
        (∀ (d : Byte) (ds : List Byte), data = d :: ds →
          (s.txReady = true → step s = .next { u with
            txReady := false, wireOut := s.wireOut ++ [d], todo := ds.map (fun v => .run (.send v)) ++ [.goto .awaitCmd] }) ∧
          (s.txReady = false → step s = .next { u with
            todo := data.map (fun v => .run (.send v)) ++ [.goto .awaitCmd] })))

/-- Rules R107, R108, R109, R232, R233, R235: the whole replies of Info, ReadFuses and an unknown command, after which the loop
is back at AWAIT_CMD; no other state is written. -/
def Obligations.CommandReplies : Prop :=
  ∀ (s : State) (rest : List Byte),
    (s.CommandReady 0x69 rest →
      s.plays ([.sequencer] ++ sendRounds (4 + s.cfg.version.length) ++ [.sequencer]) = .next { s with
        script := [], cmd := 0x69, tail := (s.tail + 1) % s.cfg.rxCap, free := s.free + 1,
        wireOut := s.wireOut ++ [BitVec.ofNat 8 s.cfg.version.length] ++ s.cfg.version ++
          [2, loByte s.cfg.bootStart, hiByte s.cfg.bootStart] }) ∧
    (s.CommandReady 0x66 rest →
      s.plays ([.sequencer] ++ sendRounds 4 ++ [.sequencer]) = .next { s with
        script := [], cmd := 0x66, tail := (s.tail + 1) % s.cfg.rxCap, free := s.free + 1,
        wireOut := s.wireOut ++ [s.cfg.fuses.f0, s.cfg.fuses.f1, s.cfg.fuses.f2, s.cfg.fuses.f3] }) ∧
    ∀ c : Byte, c ≠ 0x71 → c ≠ 0x66 → c ≠ 0x69 → c ≠ 0x75 → c ≠ 0x76 → s.CommandReady c rest →
      s.plays ([.sequencer] ++ sendRounds 2 ++ [.sequencer]) = .next { s with
        script := [], cmd := c, reply := 0x20, tail := (s.tail + 1) % s.cfg.rxCap, free := s.free + 1,
        wireOut := s.wireOut ++ [0x20, c] }

/-- Rules R234, R236: Quit is acknowledged with 0x40, clears `active`, and control is handed off; nothing is flushed. -/
def Obligations.QuitEndsTheRun : Prop :=
  ∀ (s : State) (rest : List Byte), s.CommandReady 0x71 rest →
    s.plays [.sequencer, .sequencer, .sequencer] = .next { s with
      script := [], cmd := 0x71, reply := 0x40, tail := (s.tail + 1) % s.cfg.rxCap, free := s.free + 1,
      wireOut := s.wireOut ++ [0x40], txReady := false, active := false, I := false, ivsel := false,
      seq := .handedOff }

/-- Rule R228 (decision D15): each of the five unimplemented kinds of record is answered 0x60, and the way back to AWAIT_CMD is
left to be done; nothing else changes, so the body is not read and nothing is staged or flushed. With the transmit register
busy the answer is left to be sent before it (rules R130, R222). -/
def Obligations.UnimplementedRecords : Prop :=
  ∀ (s : State) (t n : Byte) (a : AddrChars) (u : State),
    (s.txReady = true → u = { s with
      reply := 0x60, txReady := false, wireOut := s.wireOut ++ [0x60], todo := .goto .awaitCmd :: s.todo }) →
    (s.txReady = false → u = { s with
      reply := 0x60, todo := .run .stsNotImplemented :: .goto .awaitCmd :: s.todo }) →
    exec (.recEsa n a) s = .next u ∧ exec (.recSsa n a) s = .next u ∧ exec (.recEla n a) s = .next u ∧
    exec (.recSla n a) s = .next u ∧ exec (.recOther t n a) s = .next u

/-- Rule R226: a DATA record is staged, answered line-committed after that, and the sequencer is back at the header; what the
block intends program memory to hold is overlaid with the payload. -/
def Obligations.DataRecordCommits : Prop :=
  ∀ (s : State) (a : Word16) (p : List Byte),
    s.Inv → s.held = false → s.rwwEnabled = true → s.todo = [.run (.recData a p)] →
    (∀ k < p.length, (a.toNat + k) % 65536 < s.cfg.bootStart.toNat) →
    (s.dirty = true → s.pageStart.toNat < s.cfg.bootStart.toNat) →
    ∃ (es : List Event) (t : State),
      (∀ e ∈ es, e = .sequencer ∨ e = .flashEngine ∨ e = .transmitter) ∧ s.plays es = .next t ∧
      (∀ x, t.image x = writeImage s.image a p x) ∧
      t = { s with
        script := [], todo := [], seq := .uploadHdr, reply := 0x03, wireOut := s.wireOut ++ [0x03],
        txReady := t.txReady, pagebuf := t.pagebuf, pageStart := t.pageStart, dirty := t.dirty, flash := t.flash,
        fill := t.fill, spmBusy := t.spmBusy }

/-- Rule R227 (decision D37): an END_OF_FILE record flushes the pending page, if there is one, is answered finished, and ends
the upload; its address and payload play no part. -/
def Obligations.EndOfFileRecord : Prop :=
  ∀ (s : State) (a : Word16) (p : List Byte),
    (s.dirty = false →
      exec (.recEof a p) s = .next { s with todo := .run .okFinished :: .goto .awaitCmd :: s.todo }) ∧
    (s.Inv → s.held = false → s.txReady = true → s.todo = [.run (.recEof a p)] →
      (s.dirty = false →
        s.plays [.sequencer, .sequencer, .sequencer] = .next { s with
          script := [], todo := [], seq := .awaitCmd, reply := 0x04, wireOut := s.wireOut ++ [0x04],
          txReady := false }) ∧
      (s.dirty = true → s.spmBusy = false → s.pageStart.toNat < s.cfg.bootStart.toNat →
        ∃ t : State, s.plays (flushEvents ++ [.sequencer, .sequencer, .sequencer]) = .next t ∧
          t = { s with
            script := [], todo := [], seq := .awaitCmd, reply := 0x04, wireOut := s.wireOut ++ [0x04],
            txReady := false, dirty := false, flash := t.flash, fill := t.fill, rwwEnabled := true } ∧
          ∀ x, Memory.read t.flash x =
            if s.pageStart.toNat ≤ x ∧ x < s.pageStart.toNat + s.cfg.pageSize then
              s.pagebuf.getD (x - s.pageStart.toNat) 0
            else Memory.read s.flash x))

/-- Rules R101 to R103: the status bytes; and log entry 11: a status byte run as an instruction is computed into `reply` and
sent, or waits with `reply` computed. -/
def Obligations.StatusBytesComplete : Prop :=
  ∀ (ready : Byte),
    encode ready .stsUnknownCommand = [0x20] ∧ encode ready .stsQuitting = [0x40] ∧
    encode ready .stsNotImplemented = [0x60] ∧ encode ready .stsErrFraming = [0x80] ∧
    encode ready .stsErrHexDigit = [0xA0] ∧ encode ready .stsErrDecode = [0xC0] ∧
    encode ready .stsErrChecksum = [0xE0] ∧ encode ready .okPlain = [0x00] ∧ encode ready .okHeaderAccepted = [0x01] ∧
    encode ready .okPayloadAccepted = [0x02] ∧ encode ready .okLineCommitted = [0x03] ∧
    encode ready .okFinished = [0x04] ∧
    ∀ (i : Instr) (s : State), spaceOf i = .sts →
      ∃ b : Byte, encode ready i = [b] ∧
        (s.txReady = true →
          exec i s = .next { s with reply := b, txReady := false, wireOut := s.wireOut ++ [b] }) ∧
        (s.txReady = false → exec i s = .next { s with reply := b, todo := .run i :: s.todo })

/-- Rule R224 (decision D13): all nine header bytes are read first; then a bad marker is answered 0x80, a bad digit 0xC0, a
DATA header 0x01, an END_OF_FILE header with nothing, any other type 0x60. The answer goes out in the same step (log entry 18)
or, with the transmit register busy, is left to be sent first (rules R130, R222). -/
def Obligations.HeaderPhase : Prop :=
  ∀ s : State, s.SequencerTurn → s.todo = [] → s.seq = .uploadHdr →
    (s.got.length < 9 → step s = exec .recv (afterChoice s)) ∧
    ∀ (h : Header) (rest : List Byte), s.got = headerChars h ++ rest →
      (∀ n : Byte, decHdr h = .ok (n, 0x01) →
        step s = .next { afterChoice s with
          hdr := h, got := rest, res := .header n 0x01, seq := .uploadBody }) ∧
      (s.txReady = true →
        (decHdr h = .error .framing →
          step s = .next { afterChoice s with
            hdr := h, got := rest, res := .error .framing, reply := 0x80, txReady := false,
            wireOut := s.wireOut ++ [0x80], todo := [.goto .awaitCmd] }) ∧
        (∀ f : Field, decHdr h = .error (.hexDigit f) →
          step s = .next { afterChoice s with
            hdr := h, got := rest, res := .error (.hexDigit f), reply := 0xC0, txReady := false,
            wireOut := s.wireOut ++ [0xC0], todo := [.goto .awaitCmd] }) ∧
        (∀ n : Byte, decHdr h = .ok (n, 0x00) →
          step s = .next { afterChoice s with
            hdr := h, got := rest, res := .header n 0x00, reply := 0x01, txReady := false,
            wireOut := s.wireOut ++ [0x01], todo := [.goto .uploadBody] }) ∧
        (∀ n t : Byte, decHdr h = .ok (n, t) → t ≠ 0x00 → t ≠ 0x01 →
          step s = .next { afterChoice s with
            hdr := h, got := rest, res := .header n t, reply := 0x60, txReady := false,
            wireOut := s.wireOut ++ [0x60], todo := [.goto .awaitCmd] })) ∧
      (s.txReady = false →
        (decHdr h = .error .framing →
          step s = .next { afterChoice s with
            hdr := h, got := rest, res := .error .framing, reply := 0x80,
            todo := [.run .stsErrFraming, .goto .awaitCmd] }) ∧
        (∀ f : Field, decHdr h = .error (.hexDigit f) →
          step s = .next { afterChoice s with
            hdr := h, got := rest, res := .error (.hexDigit f), reply := 0xC0,
            todo := [.run .stsErrDecode, .goto .awaitCmd] }) ∧
        (∀ n : Byte, decHdr h = .ok (n, 0x00) →
          step s = .next { afterChoice s with
            hdr := h, got := rest, res := .header n 0x00, reply := 0x01,
            todo := [.run .okHeaderAccepted, .goto .uploadBody] }) ∧
        (∀ n t : Byte, decHdr h = .ok (n, t) → t ≠ 0x00 → t ≠ 0x01 →
          step s = .next { afterChoice s with
            hdr := h, got := rest, res := .header n t, reply := 0x60,
            todo := [.run .stsNotImplemented, .goto .awaitCmd] }))

/-- Rule R225 (decision D14): all `2n+2` body characters are read first; a decode error is answered with its status byte and
aborts the upload with nothing staged, flushed or discarded (rule R229); a record runs its action. The status byte goes out in
the same step (log entry 18) or, with the transmit register busy, is left to be sent first (rules R130, R222). -/
def Obligations.BodyPhase : Prop :=
  ∀ (s : State) (n : Byte), s.SequencerTurn → s.todo = [] → s.seq = .uploadBody →
    decByte s.hdr.n1 s.hdr.n0 = some n →
    (s.got.length < 2 * n.toNat + 2 → step s = exec .recv (afterChoice s)) ∧
    ∀ body rest : List Byte, s.got = body ++ rest → body.length = 2 * n.toNat + 2 →
      (∀ e : BlockError, decRec s.hdr body = .error e →
        (s.txReady = true →
          step s = .next { afterChoice s with
            body := body, got := rest, res := .error e, reply := errorByte e, txReady := false,
            wireOut := s.wireOut ++ [errorByte e], todo := [.goto .awaitCmd] }) ∧
        (s.txReady = false →
          ∃ i : Instr, encode s.cfg.readyByte i = [errorByte e] ∧ spaceOf i = .sts ∧
            step s = .next { afterChoice s with
              body := body, got := rest, res := .error e, reply := errorByte e,
              todo := [.run i, .goto .awaitCmd] })) ∧
      (∀ r : HexRecord, decRec s.hdr body = .ok r → r.recordType = 0x00 →
        step s = exec (.recData r.address r.payload)
          { afterChoice s with body := body, got := rest, res := .record r, record := r }) ∧
      (∀ r : HexRecord, decRec s.hdr body = .ok r → r.recordType = 0x01 →
        step s = exec (.recEof r.address r.payload)
          { afterChoice s with body := body, got := rest, res := .record r, record := r })

/-! ### The whole machine -/

/-- The relations between registers (00_scope.md R9; 10_state.md R31, R36, R38, R39, R40, R42; 40_transport.md R137) and the
canonical form of program memory are kept by every step of every agent. -/
def Obligations.InvKept : Prop := ∀ s t : State, s.Inv → step s = .next t → t.Inv

/-- The reset state meets them. The configuration it holds is log entry 4's. -/
def Obligations.InvAtReset : Prop := State.reset.Inv

/-- Every launch state meets every invariant of this file: any admissible parameters, any program memory. -/
def Obligations.LaunchMeetsTheInvariants : Prop :=
  ∀ (c : Config) (flash : Memory), c.Admissible → Memory.wf flash → (∀ x ∈ flash, x.1 < c.flashSize) →
    (State.resetWith c flash).Inv ∧ (State.resetWith c flash).SectionsBalanced ∧
    (State.resetWith c flash).VectorDisciplined ∧ (State.resetWith c flash).RwwDisciplined ∧
    (State.resetWith c flash).FlowAgrees ∧ (State.resetWith c flash).EntryOnce ∧ (State.resetWith c flash).ReadyFirst ∧
    (State.resetWith c flash).SeqDisciplined ∧ (State.resetWith c flash).MaskingExact

/-- Rules R44, R300: every reset value the spec gives, for all parameters; program memory keeps its content. -/
def Obligations.ResetValues : Prop :=
  ∀ (c : Config) (flash : Memory) (s t : State), t = State.resetWith c flash →
    t.cfg = c ∧ t.seq = .reset ∧ t.active = false ∧ t.I = false ∧ t.isave = [] ∧ t.ivsel = false ∧ t.head = 0 ∧
    t.tail = 0 ∧ t.free = c.rxCap ∧ t.paused = false ∧ t.txReady = true ∧ t.rxHw = [] ∧ t.wireIn = [] ∧ t.wireOut = [] ∧
    t.pageStart = 0 ∧ t.dirty = false ∧ t.flash = flash ∧ t.spmBusy = false ∧ t.rwwEnabled = true ∧
    s.afterReset = State.resetWith s.cfg s.flash ∧ ∃ c0 m, State.reset = State.resetWith c0 m

/-- Rules R301, R302 (decision D29): with ENABLE false the first step hands off with nothing initialised and nothing sent; with
ENABLE true the block is initialised, the ready byte is sent, and the command loop is entered; with the transmit register busy
the ready byte is left to be sent first. -/
def Obligations.EntryAndEnablePolicy : Prop :=
  ∀ s : State, s.cfg.Admissible → s.held = false → s.seq = .reset → s.todo = [] →
    (s.cfg.enable = false →
      s.plays [.sequencer] = .next { s with script := [], I := false, ivsel := false, seq := .handedOff }) ∧
    (s.cfg.enable = true → s.txReady = false → s.got = [] →
      s.plays [.sequencer] = .next { s with
        script := [], active := true, head := 0, tail := 0, free := s.cfg.rxCap, paused := false, dirty := false,
        ivsel := true, I := true, todo := [.run .ctlReady, .goto .awaitCmd] }) ∧
    (s.cfg.enable = true → s.txReady = true → s.got = [] →
      s.plays [.sequencer, .sequencer] = .next { s with
        script := [], active := true, head := 0, tail := 0, free := s.cfg.rxCap, paused := false, dirty := false,
        ivsel := true, I := true, txReady := false, wireOut := s.wireOut ++ [s.cfg.readyByte], seq := .awaitCmd })

/-- The frame of every instruction (the "written by" clauses of 10_state.md rules R23 to R42, 42_page_buffer.md rule R187): each
piece of state is written only by the instructions named for it, at most one byte is sent, and what was left to do stays left. -/
def Obligations.InstructionFrame : Prop :=
  ∀ (i : Instr) (s t : State), exec i s = .next t →
    t.cfg = s.cfg ∧ t.script = s.script ∧ t.tick = s.tick ∧ t.wireIn = s.wireIn ∧ t.active = s.active ∧ t.cmd = s.cmd ∧
    t.hdr = s.hdr ∧ t.body = s.body ∧ t.record = s.record ∧ t.vaddr = s.vaddr ∧ t.vcount = s.vcount ∧ t.fill = s.fill ∧
    (i ≠ .rxisr → t.rxHw = s.rxHw ∧ t.rxbuf = s.rxbuf ∧ t.head = s.head ∧ t.held = s.held) ∧
    (i ≠ .recv → t.got = s.got) ∧
    (i ≠ .recv → i ≠ .rxisr → t.tail = s.tail ∧ t.free = s.free) ∧
    (controlsFlow i = false → t.paused = s.paused ∧ t.flowOut = s.flowOut) ∧
    (i ≠ .handoff → t.ivsel = s.ivsel ∧ ∃ ks, t.todo = ks ++ s.todo) ∧
    (masks i = false → t.I = s.I ∧ t.isave = s.isave) ∧
    (movesSeq i = false → t.seq = s.seq) ∧
    (answers i = false → t.reply = s.reply) ∧
    (decodes i = false → t.res = s.res) ∧
    (stages i = false → t.pagebuf = s.pagebuf ∧ t.pageStart = s.pageStart ∧ t.dirty = s.dirty) ∧
    (flushes i = false → t.flash = s.flash ∧ t.spmBusy = s.spmBusy ∧ t.rwwEnabled = s.rwwEnabled) ∧
    ((t.wireOut = s.wireOut ∧ t.txReady = s.txReady) ∨
      (s.txReady = true ∧ t.txReady = false ∧ ∃ b, t.wireOut = s.wireOut ++ [b]))

/-- Rules R132, R271: a step of the receive agent writes the Transport's state and nothing else. -/
def Obligations.ReceiveTouchesOnlyTransport : Prop :=
  ∀ s t : State, nextEvent s = .receive → step s = .next t →
    t = { afterChoice s with
      rxHw := t.rxHw, rxbuf := t.rxbuf, head := t.head, tail := t.tail, free := t.free, paused := t.paused,
      txReady := t.txReady, wireOut := t.wireOut, flowOut := t.flowOut, held := t.held }

/-- Rules R40, R72, R74, R75: program memory changes only where FLUSH issues an erase or a program, with interrupts masked, on
the staged page alone, and never at or above the partition boundary. -/
def Obligations.FlashChangesOnlyInFlush : Prop :=
  ∀ s t : State, s.Inv → s.SectionsBalanced → step s = .next t →
    (∀ x, s.cfg.bootStart.toNat ≤ x → Memory.read t.flash x = Memory.read s.flash x) ∧
    (∀ x, x < t.pageStart.toNat ∨ t.pageStart.toNat + s.cfg.pageSize ≤ x →
      Memory.read t.flash x = Memory.read s.flash x) ∧
    (t.flash ≠ s.flash →
      nextEvent s = .sequencer ∧ t.I = false ∧ s.spmBusy = false ∧ t.spmBusy = true ∧ t.rwwEnabled = false ∧
      ∃ ts, t.todo = .flushProgram :: ts ∨ t.todo = .flushEnable :: ts)

/-- Rules R76, R204, R208: the read-while-write section is disabled only inside FLUSH, so no step reads it then and none issues
a primitive on a busy port: the only faults are the two on addresses. -/
def Obligations.OnlyAddressFaults : Prop :=
  ∀ s : State, s.RwwDisciplined →
    (∀ f : Fault, step s = .fault f → f = .flashAddressOutOfRange ∨ f = .flashWriteToBootSection) ∧
    ∀ t : State, step s = .next t → t.RwwDisciplined

/-- Rules R27, R79, R206, R207, R323: every critical section is left on every path, interrupts are masked inside, and the
receive interrupt never reaches the application's table; under these no step is ever refused. Rules R26, R221, R313: while the
session is active interrupts are enabled exactly when no section is open, the outermost section saved a set flag, at most two
are open, and RECV is never to be done with interrupts masked. -/
def Obligations.SectionsAreBalanced : Prop :=
  ∀ s : State, s.cfg.Admissible → s.SectionsBalanced → s.VectorDisciplined →
    (∀ r : Refusal, step s ≠ .refused r) ∧
    (∀ t : State, step s = .next t →
      t.SectionsBalanced ∧ t.VectorDisciplined ∧ (s.MaskingExact → t.MaskingExact)) ∧
    (s.MaskingExact → s.isave.length ≤ 2 ∧ ∀ ts, s.todo = .run .recv :: ts → s.I = true)

/-- Rule R137: every step of every agent keeps `paused` equal to what the last flow-control byte sent says; and entry happens
once (rules R300, R302). -/
def Obligations.FlowFlagAgrees : Prop :=
  ∀ s t : State, s.FlowAgrees → s.EntryOnce → step s = .next t → t.FlowAgrees ∧ t.EntryOnce

/-- Rules R23, R220: `seq` is written by the sequencer alone, and only along a row of the transition table. -/
def Obligations.SeqFollowsTheTable : Prop :=
  ∀ s t : State, s.SeqDisciplined → step s = .next t →
    (nextEvent s ≠ .sequencer → t.seq = s.seq) ∧ (t.seq = s.seq ∨ (s.seq, t.seq) ∈ transitions) ∧ t.SeqDisciplined

/-- Rules R15, R236, R276: after the hand-off every step leaves the machine handed off, and program memory, the staged page and
what was sent stay as they are. -/
def Obligations.HandedOffIsFinal : Prop :=
  ∀ s : State, s.cfg.Admissible → s.Ended →
    ∃ t : State, step s = .next t ∧ t.Ended ∧ t.flash = s.flash ∧ t.wireOut = s.wireOut ∧ t.ivsel = s.ivsel ∧
      t.dirty = s.dirty ∧ t.pagebuf = s.pagebuf ∧ t.rxbuf = s.rxbuf

/-- Rule R303: with ENABLE true the first byte ever sent is READY_BYTE. -/
def Obligations.ReadyByteFirst : Prop := ∀ s t : State, s.ReadyFirst → step s = .next t → t.ReadyFirst

/-- Rules R37, R43: no step changes the parameters of the run or takes back a byte sent or received, and a step adds at most one
byte in each direction. -/
def Obligations.RunParametersAreConstant : Prop :=
  ∀ s t : State, step s = .next t →
    t.cfg = s.cfg ∧ (∃ bs, bs.length ≤ 1 ∧ t.wireOut = s.wireOut ++ bs) ∧ ∃ bs, bs.length ≤ 1 ∧ t.wireIn = s.wireIn ++ bs
end

