-- ==== Sys2Proof/Laws/State.lean ====
section
/-! SUPPORT. What each named update of the state does to each field: one lemma a field an update, true by unfolding. -/

namespace Sys2Proof.Machine

/-! ### push -/

@[simp] theorem push_cfg (t : Task) (s : State) : (push t s).cfg = s.cfg := rfl
@[simp] theorem push_script (t : Task) (s : State) : (push t s).script = s.script := rfl
@[simp] theorem push_tick (t : Task) (s : State) : (push t s).tick = s.tick := rfl
@[simp] theorem push_seq (t : Task) (s : State) : (push t s).seq = s.seq := rfl
@[simp] theorem push_active (t : Task) (s : State) : (push t s).active = s.active := rfl
@[simp] theorem push_cmd (t : Task) (s : State) : (push t s).cmd = s.cmd := rfl
@[simp] theorem push_reply (t : Task) (s : State) : (push t s).reply = s.reply := rfl
@[simp] theorem push_hdr (t : Task) (s : State) : (push t s).hdr = s.hdr := rfl
@[simp] theorem push_body (t : Task) (s : State) : (push t s).body = s.body := rfl
@[simp] theorem push_record (t : Task) (s : State) : (push t s).record = s.record := rfl
@[simp] theorem push_vaddr (t : Task) (s : State) : (push t s).vaddr = s.vaddr := rfl
@[simp] theorem push_vcount (t : Task) (s : State) : (push t s).vcount = s.vcount := rfl
@[simp] theorem push_I (t : Task) (s : State) : (push t s).I = s.I := rfl
@[simp] theorem push_isave (t : Task) (s : State) : (push t s).isave = s.isave := rfl
@[simp] theorem push_ivsel (t : Task) (s : State) : (push t s).ivsel = s.ivsel := rfl
@[simp] theorem push_rxbuf (t : Task) (s : State) : (push t s).rxbuf = s.rxbuf := rfl
@[simp] theorem push_head (t : Task) (s : State) : (push t s).head = s.head := rfl
@[simp] theorem push_tail (t : Task) (s : State) : (push t s).tail = s.tail := rfl
@[simp] theorem push_free (t : Task) (s : State) : (push t s).free = s.free := rfl
@[simp] theorem push_paused (t : Task) (s : State) : (push t s).paused = s.paused := rfl
@[simp] theorem push_txReady (t : Task) (s : State) : (push t s).txReady = s.txReady := rfl
@[simp] theorem push_rxHw (t : Task) (s : State) : (push t s).rxHw = s.rxHw := rfl
@[simp] theorem push_wireIn (t : Task) (s : State) : (push t s).wireIn = s.wireIn := rfl
@[simp] theorem push_wireOut (t : Task) (s : State) : (push t s).wireOut = s.wireOut := rfl
@[simp] theorem push_pagebuf (t : Task) (s : State) : (push t s).pagebuf = s.pagebuf := rfl
@[simp] theorem push_pageStart (t : Task) (s : State) : (push t s).pageStart = s.pageStart := rfl
@[simp] theorem push_dirty (t : Task) (s : State) : (push t s).dirty = s.dirty := rfl
@[simp] theorem push_flash (t : Task) (s : State) : (push t s).flash = s.flash := rfl
@[simp] theorem push_spmBusy (t : Task) (s : State) : (push t s).spmBusy = s.spmBusy := rfl
@[simp] theorem push_rwwEnabled (t : Task) (s : State) : (push t s).rwwEnabled = s.rwwEnabled := rfl
@[simp] theorem push_fill (t : Task) (s : State) : (push t s).fill = s.fill := rfl
@[simp] theorem push_todo (t : Task) (s : State) : (push t s).todo = t :: s.todo := rfl
@[simp] theorem push_got (t : Task) (s : State) : (push t s).got = s.got := rfl
@[simp] theorem push_res (t : Task) (s : State) : (push t s).res = s.res := rfl
@[simp] theorem push_held (t : Task) (s : State) : (push t s).held = s.held := rfl
@[simp] theorem push_flowOut (t : Task) (s : State) : (push t s).flowOut = s.flowOut := rfl

/-! ### pushSends -/

@[simp] theorem pushSends_cfg (bs : List Byte) (s : State) : (pushSends bs s).cfg = s.cfg := rfl
@[simp] theorem pushSends_script (bs : List Byte) (s : State) : (pushSends bs s).script = s.script := rfl
@[simp] theorem pushSends_tick (bs : List Byte) (s : State) : (pushSends bs s).tick = s.tick := rfl
@[simp] theorem pushSends_seq (bs : List Byte) (s : State) : (pushSends bs s).seq = s.seq := rfl
@[simp] theorem pushSends_active (bs : List Byte) (s : State) : (pushSends bs s).active = s.active := rfl
@[simp] theorem pushSends_cmd (bs : List Byte) (s : State) : (pushSends bs s).cmd = s.cmd := rfl
@[simp] theorem pushSends_reply (bs : List Byte) (s : State) : (pushSends bs s).reply = s.reply := rfl
@[simp] theorem pushSends_hdr (bs : List Byte) (s : State) : (pushSends bs s).hdr = s.hdr := rfl
@[simp] theorem pushSends_body (bs : List Byte) (s : State) : (pushSends bs s).body = s.body := rfl
@[simp] theorem pushSends_record (bs : List Byte) (s : State) : (pushSends bs s).record = s.record := rfl
@[simp] theorem pushSends_vaddr (bs : List Byte) (s : State) : (pushSends bs s).vaddr = s.vaddr := rfl
@[simp] theorem pushSends_vcount (bs : List Byte) (s : State) : (pushSends bs s).vcount = s.vcount := rfl
@[simp] theorem pushSends_I (bs : List Byte) (s : State) : (pushSends bs s).I = s.I := rfl
@[simp] theorem pushSends_isave (bs : List Byte) (s : State) : (pushSends bs s).isave = s.isave := rfl
@[simp] theorem pushSends_ivsel (bs : List Byte) (s : State) : (pushSends bs s).ivsel = s.ivsel := rfl
@[simp] theorem pushSends_rxbuf (bs : List Byte) (s : State) : (pushSends bs s).rxbuf = s.rxbuf := rfl
@[simp] theorem pushSends_head (bs : List Byte) (s : State) : (pushSends bs s).head = s.head := rfl
@[simp] theorem pushSends_tail (bs : List Byte) (s : State) : (pushSends bs s).tail = s.tail := rfl
@[simp] theorem pushSends_free (bs : List Byte) (s : State) : (pushSends bs s).free = s.free := rfl
@[simp] theorem pushSends_paused (bs : List Byte) (s : State) : (pushSends bs s).paused = s.paused := rfl
@[simp] theorem pushSends_txReady (bs : List Byte) (s : State) : (pushSends bs s).txReady = s.txReady := rfl
@[simp] theorem pushSends_rxHw (bs : List Byte) (s : State) : (pushSends bs s).rxHw = s.rxHw := rfl
@[simp] theorem pushSends_wireIn (bs : List Byte) (s : State) : (pushSends bs s).wireIn = s.wireIn := rfl
@[simp] theorem pushSends_wireOut (bs : List Byte) (s : State) : (pushSends bs s).wireOut = s.wireOut := rfl
@[simp] theorem pushSends_pagebuf (bs : List Byte) (s : State) : (pushSends bs s).pagebuf = s.pagebuf := rfl
@[simp] theorem pushSends_pageStart (bs : List Byte) (s : State) : (pushSends bs s).pageStart = s.pageStart := rfl
@[simp] theorem pushSends_dirty (bs : List Byte) (s : State) : (pushSends bs s).dirty = s.dirty := rfl
@[simp] theorem pushSends_flash (bs : List Byte) (s : State) : (pushSends bs s).flash = s.flash := rfl
@[simp] theorem pushSends_spmBusy (bs : List Byte) (s : State) : (pushSends bs s).spmBusy = s.spmBusy := rfl
@[simp] theorem pushSends_rwwEnabled (bs : List Byte) (s : State) : (pushSends bs s).rwwEnabled = s.rwwEnabled := rfl
@[simp] theorem pushSends_fill (bs : List Byte) (s : State) : (pushSends bs s).fill = s.fill := rfl
@[simp] theorem pushSends_todo (bs : List Byte) (s : State) : (pushSends bs s).todo = bs.map (fun b => Task.run (.send b)) ++ s.todo := rfl
@[simp] theorem pushSends_got (bs : List Byte) (s : State) : (pushSends bs s).got = s.got := rfl
@[simp] theorem pushSends_res (bs : List Byte) (s : State) : (pushSends bs s).res = s.res := rfl
@[simp] theorem pushSends_held (bs : List Byte) (s : State) : (pushSends bs s).held = s.held := rfl
@[simp] theorem pushSends_flowOut (bs : List Byte) (s : State) : (pushSends bs s).flowOut = s.flowOut := rfl

/-! ### enterSection -/

@[simp] theorem enterSection_cfg (s : State) : (enterSection s).cfg = s.cfg := rfl
@[simp] theorem enterSection_script (s : State) : (enterSection s).script = s.script := rfl
@[simp] theorem enterSection_tick (s : State) : (enterSection s).tick = s.tick := rfl
@[simp] theorem enterSection_seq (s : State) : (enterSection s).seq = s.seq := rfl
@[simp] theorem enterSection_active (s : State) : (enterSection s).active = s.active := rfl
@[simp] theorem enterSection_cmd (s : State) : (enterSection s).cmd = s.cmd := rfl
@[simp] theorem enterSection_reply (s : State) : (enterSection s).reply = s.reply := rfl
@[simp] theorem enterSection_hdr (s : State) : (enterSection s).hdr = s.hdr := rfl
@[simp] theorem enterSection_body (s : State) : (enterSection s).body = s.body := rfl
@[simp] theorem enterSection_record (s : State) : (enterSection s).record = s.record := rfl
@[simp] theorem enterSection_vaddr (s : State) : (enterSection s).vaddr = s.vaddr := rfl
@[simp] theorem enterSection_vcount (s : State) : (enterSection s).vcount = s.vcount := rfl
@[simp] theorem enterSection_I (s : State) : (enterSection s).I = false := rfl
@[simp] theorem enterSection_isave (s : State) : (enterSection s).isave = s.I :: s.isave := rfl
@[simp] theorem enterSection_ivsel (s : State) : (enterSection s).ivsel = s.ivsel := rfl
@[simp] theorem enterSection_rxbuf (s : State) : (enterSection s).rxbuf = s.rxbuf := rfl
@[simp] theorem enterSection_head (s : State) : (enterSection s).head = s.head := rfl
@[simp] theorem enterSection_tail (s : State) : (enterSection s).tail = s.tail := rfl
@[simp] theorem enterSection_free (s : State) : (enterSection s).free = s.free := rfl
@[simp] theorem enterSection_paused (s : State) : (enterSection s).paused = s.paused := rfl
@[simp] theorem enterSection_txReady (s : State) : (enterSection s).txReady = s.txReady := rfl
@[simp] theorem enterSection_rxHw (s : State) : (enterSection s).rxHw = s.rxHw := rfl
@[simp] theorem enterSection_wireIn (s : State) : (enterSection s).wireIn = s.wireIn := rfl
@[simp] theorem enterSection_wireOut (s : State) : (enterSection s).wireOut = s.wireOut := rfl
@[simp] theorem enterSection_pagebuf (s : State) : (enterSection s).pagebuf = s.pagebuf := rfl
@[simp] theorem enterSection_pageStart (s : State) : (enterSection s).pageStart = s.pageStart := rfl
@[simp] theorem enterSection_dirty (s : State) : (enterSection s).dirty = s.dirty := rfl
@[simp] theorem enterSection_flash (s : State) : (enterSection s).flash = s.flash := rfl
@[simp] theorem enterSection_spmBusy (s : State) : (enterSection s).spmBusy = s.spmBusy := rfl
@[simp] theorem enterSection_rwwEnabled (s : State) : (enterSection s).rwwEnabled = s.rwwEnabled := rfl
@[simp] theorem enterSection_fill (s : State) : (enterSection s).fill = s.fill := rfl
@[simp] theorem enterSection_todo (s : State) : (enterSection s).todo = s.todo := rfl
@[simp] theorem enterSection_got (s : State) : (enterSection s).got = s.got := rfl
@[simp] theorem enterSection_res (s : State) : (enterSection s).res = s.res := rfl
@[simp] theorem enterSection_held (s : State) : (enterSection s).held = s.held := rfl
@[simp] theorem enterSection_flowOut (s : State) : (enterSection s).flowOut = s.flowOut := rfl

/-! ### leaveSection -/

@[simp] theorem leaveSection_cfg (s : State) : (leaveSection s).cfg = s.cfg := rfl
@[simp] theorem leaveSection_script (s : State) : (leaveSection s).script = s.script := rfl
@[simp] theorem leaveSection_tick (s : State) : (leaveSection s).tick = s.tick := rfl
@[simp] theorem leaveSection_seq (s : State) : (leaveSection s).seq = s.seq := rfl
@[simp] theorem leaveSection_active (s : State) : (leaveSection s).active = s.active := rfl
@[simp] theorem leaveSection_cmd (s : State) : (leaveSection s).cmd = s.cmd := rfl
@[simp] theorem leaveSection_reply (s : State) : (leaveSection s).reply = s.reply := rfl
@[simp] theorem leaveSection_hdr (s : State) : (leaveSection s).hdr = s.hdr := rfl
@[simp] theorem leaveSection_body (s : State) : (leaveSection s).body = s.body := rfl
@[simp] theorem leaveSection_record (s : State) : (leaveSection s).record = s.record := rfl
@[simp] theorem leaveSection_vaddr (s : State) : (leaveSection s).vaddr = s.vaddr := rfl
@[simp] theorem leaveSection_vcount (s : State) : (leaveSection s).vcount = s.vcount := rfl
@[simp] theorem leaveSection_I (s : State) : (leaveSection s).I = s.isave.headD s.I := rfl
@[simp] theorem leaveSection_isave (s : State) : (leaveSection s).isave = s.isave.tail := rfl
@[simp] theorem leaveSection_ivsel (s : State) : (leaveSection s).ivsel = s.ivsel := rfl
@[simp] theorem leaveSection_rxbuf (s : State) : (leaveSection s).rxbuf = s.rxbuf := rfl
@[simp] theorem leaveSection_head (s : State) : (leaveSection s).head = s.head := rfl
@[simp] theorem leaveSection_tail (s : State) : (leaveSection s).tail = s.tail := rfl
@[simp] theorem leaveSection_free (s : State) : (leaveSection s).free = s.free := rfl
@[simp] theorem leaveSection_paused (s : State) : (leaveSection s).paused = s.paused := rfl
@[simp] theorem leaveSection_txReady (s : State) : (leaveSection s).txReady = s.txReady := rfl
@[simp] theorem leaveSection_rxHw (s : State) : (leaveSection s).rxHw = s.rxHw := rfl
@[simp] theorem leaveSection_wireIn (s : State) : (leaveSection s).wireIn = s.wireIn := rfl
@[simp] theorem leaveSection_wireOut (s : State) : (leaveSection s).wireOut = s.wireOut := rfl
@[simp] theorem leaveSection_pagebuf (s : State) : (leaveSection s).pagebuf = s.pagebuf := rfl
@[simp] theorem leaveSection_pageStart (s : State) : (leaveSection s).pageStart = s.pageStart := rfl
@[simp] theorem leaveSection_dirty (s : State) : (leaveSection s).dirty = s.dirty := rfl
@[simp] theorem leaveSection_flash (s : State) : (leaveSection s).flash = s.flash := rfl
@[simp] theorem leaveSection_spmBusy (s : State) : (leaveSection s).spmBusy = s.spmBusy := rfl
@[simp] theorem leaveSection_rwwEnabled (s : State) : (leaveSection s).rwwEnabled = s.rwwEnabled := rfl
@[simp] theorem leaveSection_fill (s : State) : (leaveSection s).fill = s.fill := rfl
@[simp] theorem leaveSection_todo (s : State) : (leaveSection s).todo = s.todo := rfl
@[simp] theorem leaveSection_got (s : State) : (leaveSection s).got = s.got := rfl
@[simp] theorem leaveSection_res (s : State) : (leaveSection s).res = s.res := rfl
@[simp] theorem leaveSection_held (s : State) : (leaveSection s).held = s.held := rfl
@[simp] theorem leaveSection_flowOut (s : State) : (leaveSection s).flowOut = s.flowOut := rfl

/-! ### emit -/

@[simp] theorem emit_cfg (b : Byte) (s : State) : (emit b s).cfg = s.cfg := rfl
@[simp] theorem emit_script (b : Byte) (s : State) : (emit b s).script = s.script := rfl
@[simp] theorem emit_tick (b : Byte) (s : State) : (emit b s).tick = s.tick := rfl
@[simp] theorem emit_seq (b : Byte) (s : State) : (emit b s).seq = s.seq := rfl
@[simp] theorem emit_active (b : Byte) (s : State) : (emit b s).active = s.active := rfl
@[simp] theorem emit_cmd (b : Byte) (s : State) : (emit b s).cmd = s.cmd := rfl
@[simp] theorem emit_reply (b : Byte) (s : State) : (emit b s).reply = s.reply := rfl
@[simp] theorem emit_hdr (b : Byte) (s : State) : (emit b s).hdr = s.hdr := rfl
@[simp] theorem emit_body (b : Byte) (s : State) : (emit b s).body = s.body := rfl
@[simp] theorem emit_record (b : Byte) (s : State) : (emit b s).record = s.record := rfl
@[simp] theorem emit_vaddr (b : Byte) (s : State) : (emit b s).vaddr = s.vaddr := rfl
@[simp] theorem emit_vcount (b : Byte) (s : State) : (emit b s).vcount = s.vcount := rfl
@[simp] theorem emit_I (b : Byte) (s : State) : (emit b s).I = s.I := rfl
@[simp] theorem emit_isave (b : Byte) (s : State) : (emit b s).isave = s.isave := rfl
@[simp] theorem emit_ivsel (b : Byte) (s : State) : (emit b s).ivsel = s.ivsel := rfl
@[simp] theorem emit_rxbuf (b : Byte) (s : State) : (emit b s).rxbuf = s.rxbuf := rfl
@[simp] theorem emit_head (b : Byte) (s : State) : (emit b s).head = s.head := rfl
@[simp] theorem emit_tail (b : Byte) (s : State) : (emit b s).tail = s.tail := rfl
@[simp] theorem emit_free (b : Byte) (s : State) : (emit b s).free = s.free := rfl
@[simp] theorem emit_paused (b : Byte) (s : State) : (emit b s).paused = s.paused := rfl
@[simp] theorem emit_txReady (b : Byte) (s : State) : (emit b s).txReady = false := rfl
@[simp] theorem emit_rxHw (b : Byte) (s : State) : (emit b s).rxHw = s.rxHw := rfl
@[simp] theorem emit_wireIn (b : Byte) (s : State) : (emit b s).wireIn = s.wireIn := rfl
@[simp] theorem emit_wireOut (b : Byte) (s : State) : (emit b s).wireOut = s.wireOut ++ [b] := rfl
@[simp] theorem emit_pagebuf (b : Byte) (s : State) : (emit b s).pagebuf = s.pagebuf := rfl
@[simp] theorem emit_pageStart (b : Byte) (s : State) : (emit b s).pageStart = s.pageStart := rfl
@[simp] theorem emit_dirty (b : Byte) (s : State) : (emit b s).dirty = s.dirty := rfl
@[simp] theorem emit_flash (b : Byte) (s : State) : (emit b s).flash = s.flash := rfl
@[simp] theorem emit_spmBusy (b : Byte) (s : State) : (emit b s).spmBusy = s.spmBusy := rfl
@[simp] theorem emit_rwwEnabled (b : Byte) (s : State) : (emit b s).rwwEnabled = s.rwwEnabled := rfl
@[simp] theorem emit_fill (b : Byte) (s : State) : (emit b s).fill = s.fill := rfl
@[simp] theorem emit_todo (b : Byte) (s : State) : (emit b s).todo = s.todo := rfl
@[simp] theorem emit_got (b : Byte) (s : State) : (emit b s).got = s.got := rfl
@[simp] theorem emit_res (b : Byte) (s : State) : (emit b s).res = s.res := rfl
@[simp] theorem emit_held (b : Byte) (s : State) : (emit b s).held = s.held := rfl
@[simp] theorem emit_flowOut (b : Byte) (s : State) : (emit b s).flowOut = s.flowOut := rfl

/-! ### emitXoff -/

@[simp] theorem emitXoff_cfg (s : State) : (emitXoff s).cfg = s.cfg := rfl
@[simp] theorem emitXoff_script (s : State) : (emitXoff s).script = s.script := rfl
@[simp] theorem emitXoff_tick (s : State) : (emitXoff s).tick = s.tick := rfl
@[simp] theorem emitXoff_seq (s : State) : (emitXoff s).seq = s.seq := rfl
@[simp] theorem emitXoff_active (s : State) : (emitXoff s).active = s.active := rfl
@[simp] theorem emitXoff_cmd (s : State) : (emitXoff s).cmd = s.cmd := rfl
@[simp] theorem emitXoff_reply (s : State) : (emitXoff s).reply = s.reply := rfl
@[simp] theorem emitXoff_hdr (s : State) : (emitXoff s).hdr = s.hdr := rfl
@[simp] theorem emitXoff_body (s : State) : (emitXoff s).body = s.body := rfl
@[simp] theorem emitXoff_record (s : State) : (emitXoff s).record = s.record := rfl
@[simp] theorem emitXoff_vaddr (s : State) : (emitXoff s).vaddr = s.vaddr := rfl
@[simp] theorem emitXoff_vcount (s : State) : (emitXoff s).vcount = s.vcount := rfl
@[simp] theorem emitXoff_I (s : State) : (emitXoff s).I = s.I := rfl
@[simp] theorem emitXoff_isave (s : State) : (emitXoff s).isave = s.isave := rfl
@[simp] theorem emitXoff_ivsel (s : State) : (emitXoff s).ivsel = s.ivsel := rfl
@[simp] theorem emitXoff_rxbuf (s : State) : (emitXoff s).rxbuf = s.rxbuf := rfl
@[simp] theorem emitXoff_head (s : State) : (emitXoff s).head = s.head := rfl
@[simp] theorem emitXoff_tail (s : State) : (emitXoff s).tail = s.tail := rfl
@[simp] theorem emitXoff_free (s : State) : (emitXoff s).free = s.free := rfl
@[simp] theorem emitXoff_paused (s : State) : (emitXoff s).paused = true := rfl
@[simp] theorem emitXoff_txReady (s : State) : (emitXoff s).txReady = false := rfl
@[simp] theorem emitXoff_rxHw (s : State) : (emitXoff s).rxHw = s.rxHw := rfl
@[simp] theorem emitXoff_wireIn (s : State) : (emitXoff s).wireIn = s.wireIn := rfl
@[simp] theorem emitXoff_wireOut (s : State) : (emitXoff s).wireOut = s.wireOut ++ [xoffByte] := rfl
@[simp] theorem emitXoff_pagebuf (s : State) : (emitXoff s).pagebuf = s.pagebuf := rfl
@[simp] theorem emitXoff_pageStart (s : State) : (emitXoff s).pageStart = s.pageStart := rfl
@[simp] theorem emitXoff_dirty (s : State) : (emitXoff s).dirty = s.dirty := rfl
@[simp] theorem emitXoff_flash (s : State) : (emitXoff s).flash = s.flash := rfl
@[simp] theorem emitXoff_spmBusy (s : State) : (emitXoff s).spmBusy = s.spmBusy := rfl
@[simp] theorem emitXoff_rwwEnabled (s : State) : (emitXoff s).rwwEnabled = s.rwwEnabled := rfl
@[simp] theorem emitXoff_fill (s : State) : (emitXoff s).fill = s.fill := rfl
@[simp] theorem emitXoff_todo (s : State) : (emitXoff s).todo = s.todo := rfl
@[simp] theorem emitXoff_got (s : State) : (emitXoff s).got = s.got := rfl
@[simp] theorem emitXoff_res (s : State) : (emitXoff s).res = s.res := rfl
@[simp] theorem emitXoff_held (s : State) : (emitXoff s).held = s.held := rfl
@[simp] theorem emitXoff_flowOut (s : State) : (emitXoff s).flowOut = s.flowOut ++ [xoffByte] := rfl

/-! ### emitXon -/

@[simp] theorem emitXon_cfg (s : State) : (emitXon s).cfg = s.cfg := rfl
@[simp] theorem emitXon_script (s : State) : (emitXon s).script = s.script := rfl
@[simp] theorem emitXon_tick (s : State) : (emitXon s).tick = s.tick := rfl
@[simp] theorem emitXon_seq (s : State) : (emitXon s).seq = s.seq := rfl
@[simp] theorem emitXon_active (s : State) : (emitXon s).active = s.active := rfl
@[simp] theorem emitXon_cmd (s : State) : (emitXon s).cmd = s.cmd := rfl
@[simp] theorem emitXon_reply (s : State) : (emitXon s).reply = s.reply := rfl
@[simp] theorem emitXon_hdr (s : State) : (emitXon s).hdr = s.hdr := rfl
@[simp] theorem emitXon_body (s : State) : (emitXon s).body = s.body := rfl
@[simp] theorem emitXon_record (s : State) : (emitXon s).record = s.record := rfl
@[simp] theorem emitXon_vaddr (s : State) : (emitXon s).vaddr = s.vaddr := rfl
@[simp] theorem emitXon_vcount (s : State) : (emitXon s).vcount = s.vcount := rfl
@[simp] theorem emitXon_I (s : State) : (emitXon s).I = s.I := rfl
@[simp] theorem emitXon_isave (s : State) : (emitXon s).isave = s.isave := rfl
@[simp] theorem emitXon_ivsel (s : State) : (emitXon s).ivsel = s.ivsel := rfl
@[simp] theorem emitXon_rxbuf (s : State) : (emitXon s).rxbuf = s.rxbuf := rfl
@[simp] theorem emitXon_head (s : State) : (emitXon s).head = s.head := rfl
@[simp] theorem emitXon_tail (s : State) : (emitXon s).tail = s.tail := rfl
@[simp] theorem emitXon_free (s : State) : (emitXon s).free = s.free := rfl
@[simp] theorem emitXon_paused (s : State) : (emitXon s).paused = false := rfl
@[simp] theorem emitXon_txReady (s : State) : (emitXon s).txReady = false := rfl
@[simp] theorem emitXon_rxHw (s : State) : (emitXon s).rxHw = s.rxHw := rfl
@[simp] theorem emitXon_wireIn (s : State) : (emitXon s).wireIn = s.wireIn := rfl
@[simp] theorem emitXon_wireOut (s : State) : (emitXon s).wireOut = s.wireOut ++ [xonByte] := rfl
@[simp] theorem emitXon_pagebuf (s : State) : (emitXon s).pagebuf = s.pagebuf := rfl
@[simp] theorem emitXon_pageStart (s : State) : (emitXon s).pageStart = s.pageStart := rfl
@[simp] theorem emitXon_dirty (s : State) : (emitXon s).dirty = s.dirty := rfl
@[simp] theorem emitXon_flash (s : State) : (emitXon s).flash = s.flash := rfl
@[simp] theorem emitXon_spmBusy (s : State) : (emitXon s).spmBusy = s.spmBusy := rfl
@[simp] theorem emitXon_rwwEnabled (s : State) : (emitXon s).rwwEnabled = s.rwwEnabled := rfl
@[simp] theorem emitXon_fill (s : State) : (emitXon s).fill = s.fill := rfl
@[simp] theorem emitXon_todo (s : State) : (emitXon s).todo = s.todo := rfl
@[simp] theorem emitXon_got (s : State) : (emitXon s).got = s.got := rfl
@[simp] theorem emitXon_res (s : State) : (emitXon s).res = s.res := rfl
@[simp] theorem emitXon_held (s : State) : (emitXon s).held = s.held := rfl
@[simp] theorem emitXon_flowOut (s : State) : (emitXon s).flowOut = s.flowOut ++ [xonByte] := rfl

/-! ### dequeue -/

@[simp] theorem dequeue_cfg (s : State) : (dequeue s).cfg = s.cfg := rfl
@[simp] theorem dequeue_script (s : State) : (dequeue s).script = s.script := rfl
@[simp] theorem dequeue_tick (s : State) : (dequeue s).tick = s.tick := rfl
@[simp] theorem dequeue_seq (s : State) : (dequeue s).seq = s.seq := rfl
@[simp] theorem dequeue_active (s : State) : (dequeue s).active = s.active := rfl
@[simp] theorem dequeue_cmd (s : State) : (dequeue s).cmd = s.cmd := rfl
@[simp] theorem dequeue_reply (s : State) : (dequeue s).reply = s.reply := rfl
@[simp] theorem dequeue_hdr (s : State) : (dequeue s).hdr = s.hdr := rfl
@[simp] theorem dequeue_body (s : State) : (dequeue s).body = s.body := rfl
@[simp] theorem dequeue_record (s : State) : (dequeue s).record = s.record := rfl
@[simp] theorem dequeue_vaddr (s : State) : (dequeue s).vaddr = s.vaddr := rfl
@[simp] theorem dequeue_vcount (s : State) : (dequeue s).vcount = s.vcount := rfl
@[simp] theorem dequeue_I (s : State) : (dequeue s).I = s.I := rfl
@[simp] theorem dequeue_isave (s : State) : (dequeue s).isave = s.isave := rfl
@[simp] theorem dequeue_ivsel (s : State) : (dequeue s).ivsel = s.ivsel := rfl
@[simp] theorem dequeue_rxbuf (s : State) : (dequeue s).rxbuf = s.rxbuf := rfl
@[simp] theorem dequeue_head (s : State) : (dequeue s).head = s.head := rfl
@[simp] theorem dequeue_tail (s : State) : (dequeue s).tail = (s.tail + 1) % s.cfg.rxCap := rfl
@[simp] theorem dequeue_free (s : State) : (dequeue s).free = s.free + 1 := rfl
@[simp] theorem dequeue_paused (s : State) : (dequeue s).paused = s.paused := rfl
@[simp] theorem dequeue_txReady (s : State) : (dequeue s).txReady = s.txReady := rfl
@[simp] theorem dequeue_rxHw (s : State) : (dequeue s).rxHw = s.rxHw := rfl
@[simp] theorem dequeue_wireIn (s : State) : (dequeue s).wireIn = s.wireIn := rfl
@[simp] theorem dequeue_wireOut (s : State) : (dequeue s).wireOut = s.wireOut := rfl
@[simp] theorem dequeue_pagebuf (s : State) : (dequeue s).pagebuf = s.pagebuf := rfl
@[simp] theorem dequeue_pageStart (s : State) : (dequeue s).pageStart = s.pageStart := rfl
@[simp] theorem dequeue_dirty (s : State) : (dequeue s).dirty = s.dirty := rfl
@[simp] theorem dequeue_flash (s : State) : (dequeue s).flash = s.flash := rfl
@[simp] theorem dequeue_spmBusy (s : State) : (dequeue s).spmBusy = s.spmBusy := rfl
@[simp] theorem dequeue_rwwEnabled (s : State) : (dequeue s).rwwEnabled = s.rwwEnabled := rfl
@[simp] theorem dequeue_fill (s : State) : (dequeue s).fill = s.fill := rfl
@[simp] theorem dequeue_todo (s : State) : (dequeue s).todo = s.todo := rfl
@[simp] theorem dequeue_got (s : State) : (dequeue s).got = s.got ++ [s.rxbuf.getD s.tail 0] := rfl
@[simp] theorem dequeue_res (s : State) : (dequeue s).res = s.res := rfl
@[simp] theorem dequeue_held (s : State) : (dequeue s).held = s.held := rfl
@[simp] theorem dequeue_flowOut (s : State) : (dequeue s).flowOut = s.flowOut := rfl

/-! ### returnResult -/

@[simp] theorem returnResult_cfg (r : Result) (s : State) : (returnResult r s).cfg = s.cfg := rfl
@[simp] theorem returnResult_script (r : Result) (s : State) : (returnResult r s).script = s.script := rfl
@[simp] theorem returnResult_tick (r : Result) (s : State) : (returnResult r s).tick = s.tick := rfl
@[simp] theorem returnResult_seq (r : Result) (s : State) : (returnResult r s).seq = s.seq := rfl
@[simp] theorem returnResult_active (r : Result) (s : State) : (returnResult r s).active = s.active := rfl
@[simp] theorem returnResult_cmd (r : Result) (s : State) : (returnResult r s).cmd = s.cmd := rfl
@[simp] theorem returnResult_reply (r : Result) (s : State) : (returnResult r s).reply = s.reply := rfl
@[simp] theorem returnResult_hdr (r : Result) (s : State) : (returnResult r s).hdr = s.hdr := rfl
@[simp] theorem returnResult_body (r : Result) (s : State) : (returnResult r s).body = s.body := rfl
@[simp] theorem returnResult_record (r : Result) (s : State) : (returnResult r s).record = s.record := rfl
@[simp] theorem returnResult_vaddr (r : Result) (s : State) : (returnResult r s).vaddr = s.vaddr := rfl
@[simp] theorem returnResult_vcount (r : Result) (s : State) : (returnResult r s).vcount = s.vcount := rfl
@[simp] theorem returnResult_I (r : Result) (s : State) : (returnResult r s).I = s.I := rfl
@[simp] theorem returnResult_isave (r : Result) (s : State) : (returnResult r s).isave = s.isave := rfl
@[simp] theorem returnResult_ivsel (r : Result) (s : State) : (returnResult r s).ivsel = s.ivsel := rfl
@[simp] theorem returnResult_rxbuf (r : Result) (s : State) : (returnResult r s).rxbuf = s.rxbuf := rfl
@[simp] theorem returnResult_head (r : Result) (s : State) : (returnResult r s).head = s.head := rfl
@[simp] theorem returnResult_tail (r : Result) (s : State) : (returnResult r s).tail = s.tail := rfl
@[simp] theorem returnResult_free (r : Result) (s : State) : (returnResult r s).free = s.free := rfl
@[simp] theorem returnResult_paused (r : Result) (s : State) : (returnResult r s).paused = s.paused := rfl
@[simp] theorem returnResult_txReady (r : Result) (s : State) : (returnResult r s).txReady = s.txReady := rfl
@[simp] theorem returnResult_rxHw (r : Result) (s : State) : (returnResult r s).rxHw = s.rxHw := rfl
@[simp] theorem returnResult_wireIn (r : Result) (s : State) : (returnResult r s).wireIn = s.wireIn := rfl
@[simp] theorem returnResult_wireOut (r : Result) (s : State) : (returnResult r s).wireOut = s.wireOut := rfl
@[simp] theorem returnResult_pagebuf (r : Result) (s : State) : (returnResult r s).pagebuf = s.pagebuf := rfl
@[simp] theorem returnResult_pageStart (r : Result) (s : State) : (returnResult r s).pageStart = s.pageStart := rfl
@[simp] theorem returnResult_dirty (r : Result) (s : State) : (returnResult r s).dirty = s.dirty := rfl
@[simp] theorem returnResult_flash (r : Result) (s : State) : (returnResult r s).flash = s.flash := rfl
@[simp] theorem returnResult_spmBusy (r : Result) (s : State) : (returnResult r s).spmBusy = s.spmBusy := rfl
@[simp] theorem returnResult_rwwEnabled (r : Result) (s : State) : (returnResult r s).rwwEnabled = s.rwwEnabled := rfl
@[simp] theorem returnResult_fill (r : Result) (s : State) : (returnResult r s).fill = s.fill := rfl
@[simp] theorem returnResult_todo (r : Result) (s : State) : (returnResult r s).todo = s.todo := rfl
@[simp] theorem returnResult_got (r : Result) (s : State) : (returnResult r s).got = s.got := rfl
@[simp] theorem returnResult_res (r : Result) (s : State) : (returnResult r s).res = r := rfl
@[simp] theorem returnResult_held (r : Result) (s : State) : (returnResult r s).held = s.held := rfl
@[simp] theorem returnResult_flowOut (r : Result) (s : State) : (returnResult r s).flowOut = s.flowOut := rfl

/-! ### stageByte -/

@[simp] theorem stageByte_cfg (a : Word16) (b : Byte) (s : State) : (stageByte a b s).cfg = s.cfg := rfl
@[simp] theorem stageByte_script (a : Word16) (b : Byte) (s : State) : (stageByte a b s).script = s.script := rfl
@[simp] theorem stageByte_tick (a : Word16) (b : Byte) (s : State) : (stageByte a b s).tick = s.tick := rfl
@[simp] theorem stageByte_seq (a : Word16) (b : Byte) (s : State) : (stageByte a b s).seq = s.seq := rfl
@[simp] theorem stageByte_active (a : Word16) (b : Byte) (s : State) : (stageByte a b s).active = s.active := rfl
@[simp] theorem stageByte_cmd (a : Word16) (b : Byte) (s : State) : (stageByte a b s).cmd = s.cmd := rfl
@[simp] theorem stageByte_reply (a : Word16) (b : Byte) (s : State) : (stageByte a b s).reply = s.reply := rfl
@[simp] theorem stageByte_hdr (a : Word16) (b : Byte) (s : State) : (stageByte a b s).hdr = s.hdr := rfl
@[simp] theorem stageByte_body (a : Word16) (b : Byte) (s : State) : (stageByte a b s).body = s.body := rfl
@[simp] theorem stageByte_record (a : Word16) (b : Byte) (s : State) : (stageByte a b s).record = s.record := rfl
@[simp] theorem stageByte_vaddr (a : Word16) (b : Byte) (s : State) : (stageByte a b s).vaddr = s.vaddr := rfl
@[simp] theorem stageByte_vcount (a : Word16) (b : Byte) (s : State) : (stageByte a b s).vcount = s.vcount := rfl
@[simp] theorem stageByte_I (a : Word16) (b : Byte) (s : State) : (stageByte a b s).I = s.I := rfl
@[simp] theorem stageByte_isave (a : Word16) (b : Byte) (s : State) : (stageByte a b s).isave = s.isave := rfl
@[simp] theorem stageByte_ivsel (a : Word16) (b : Byte) (s : State) : (stageByte a b s).ivsel = s.ivsel := rfl
@[simp] theorem stageByte_rxbuf (a : Word16) (b : Byte) (s : State) : (stageByte a b s).rxbuf = s.rxbuf := rfl
@[simp] theorem stageByte_head (a : Word16) (b : Byte) (s : State) : (stageByte a b s).head = s.head := rfl
@[simp] theorem stageByte_tail (a : Word16) (b : Byte) (s : State) : (stageByte a b s).tail = s.tail := rfl
@[simp] theorem stageByte_free (a : Word16) (b : Byte) (s : State) : (stageByte a b s).free = s.free := rfl
@[simp] theorem stageByte_paused (a : Word16) (b : Byte) (s : State) : (stageByte a b s).paused = s.paused := rfl
@[simp] theorem stageByte_txReady (a : Word16) (b : Byte) (s : State) : (stageByte a b s).txReady = s.txReady := rfl
@[simp] theorem stageByte_rxHw (a : Word16) (b : Byte) (s : State) : (stageByte a b s).rxHw = s.rxHw := rfl
@[simp] theorem stageByte_wireIn (a : Word16) (b : Byte) (s : State) : (stageByte a b s).wireIn = s.wireIn := rfl
@[simp] theorem stageByte_wireOut (a : Word16) (b : Byte) (s : State) : (stageByte a b s).wireOut = s.wireOut := rfl
@[simp] theorem stageByte_pagebuf (a : Word16) (b : Byte) (s : State) : (stageByte a b s).pagebuf = s.pagebuf.set (a.toNat - s.pageStart.toNat) b := rfl
@[simp] theorem stageByte_pageStart (a : Word16) (b : Byte) (s : State) : (stageByte a b s).pageStart = s.pageStart := rfl
@[simp] theorem stageByte_dirty (a : Word16) (b : Byte) (s : State) : (stageByte a b s).dirty = s.dirty := rfl
@[simp] theorem stageByte_flash (a : Word16) (b : Byte) (s : State) : (stageByte a b s).flash = s.flash := rfl
@[simp] theorem stageByte_spmBusy (a : Word16) (b : Byte) (s : State) : (stageByte a b s).spmBusy = s.spmBusy := rfl
@[simp] theorem stageByte_rwwEnabled (a : Word16) (b : Byte) (s : State) : (stageByte a b s).rwwEnabled = s.rwwEnabled := rfl
@[simp] theorem stageByte_fill (a : Word16) (b : Byte) (s : State) : (stageByte a b s).fill = s.fill := rfl
@[simp] theorem stageByte_todo (a : Word16) (b : Byte) (s : State) : (stageByte a b s).todo = s.todo := rfl
@[simp] theorem stageByte_got (a : Word16) (b : Byte) (s : State) : (stageByte a b s).got = s.got := rfl
@[simp] theorem stageByte_res (a : Word16) (b : Byte) (s : State) : (stageByte a b s).res = s.res := rfl
@[simp] theorem stageByte_held (a : Word16) (b : Byte) (s : State) : (stageByte a b s).held = s.held := rfl
@[simp] theorem stageByte_flowOut (a : Word16) (b : Byte) (s : State) : (stageByte a b s).flowOut = s.flowOut := rfl

/-! ### transmitterStep -/

@[simp] theorem transmitterStep_cfg (s : State) : (transmitterStep s).cfg = s.cfg := rfl
@[simp] theorem transmitterStep_script (s : State) : (transmitterStep s).script = s.script := rfl
@[simp] theorem transmitterStep_tick (s : State) : (transmitterStep s).tick = s.tick := rfl
@[simp] theorem transmitterStep_seq (s : State) : (transmitterStep s).seq = s.seq := rfl
@[simp] theorem transmitterStep_active (s : State) : (transmitterStep s).active = s.active := rfl
@[simp] theorem transmitterStep_cmd (s : State) : (transmitterStep s).cmd = s.cmd := rfl
@[simp] theorem transmitterStep_reply (s : State) : (transmitterStep s).reply = s.reply := rfl
@[simp] theorem transmitterStep_hdr (s : State) : (transmitterStep s).hdr = s.hdr := rfl
@[simp] theorem transmitterStep_body (s : State) : (transmitterStep s).body = s.body := rfl
@[simp] theorem transmitterStep_record (s : State) : (transmitterStep s).record = s.record := rfl
@[simp] theorem transmitterStep_vaddr (s : State) : (transmitterStep s).vaddr = s.vaddr := rfl
@[simp] theorem transmitterStep_vcount (s : State) : (transmitterStep s).vcount = s.vcount := rfl
@[simp] theorem transmitterStep_I (s : State) : (transmitterStep s).I = s.I := rfl
@[simp] theorem transmitterStep_isave (s : State) : (transmitterStep s).isave = s.isave := rfl
@[simp] theorem transmitterStep_ivsel (s : State) : (transmitterStep s).ivsel = s.ivsel := rfl
@[simp] theorem transmitterStep_rxbuf (s : State) : (transmitterStep s).rxbuf = s.rxbuf := rfl
@[simp] theorem transmitterStep_head (s : State) : (transmitterStep s).head = s.head := rfl
@[simp] theorem transmitterStep_tail (s : State) : (transmitterStep s).tail = s.tail := rfl
@[simp] theorem transmitterStep_free (s : State) : (transmitterStep s).free = s.free := rfl
@[simp] theorem transmitterStep_paused (s : State) : (transmitterStep s).paused = s.paused := rfl
@[simp] theorem transmitterStep_txReady (s : State) : (transmitterStep s).txReady = true := rfl
@[simp] theorem transmitterStep_rxHw (s : State) : (transmitterStep s).rxHw = s.rxHw := rfl
@[simp] theorem transmitterStep_wireIn (s : State) : (transmitterStep s).wireIn = s.wireIn := rfl
@[simp] theorem transmitterStep_wireOut (s : State) : (transmitterStep s).wireOut = s.wireOut := rfl
@[simp] theorem transmitterStep_pagebuf (s : State) : (transmitterStep s).pagebuf = s.pagebuf := rfl
@[simp] theorem transmitterStep_pageStart (s : State) : (transmitterStep s).pageStart = s.pageStart := rfl
@[simp] theorem transmitterStep_dirty (s : State) : (transmitterStep s).dirty = s.dirty := rfl
@[simp] theorem transmitterStep_flash (s : State) : (transmitterStep s).flash = s.flash := rfl
@[simp] theorem transmitterStep_spmBusy (s : State) : (transmitterStep s).spmBusy = s.spmBusy := rfl
@[simp] theorem transmitterStep_rwwEnabled (s : State) : (transmitterStep s).rwwEnabled = s.rwwEnabled := rfl
@[simp] theorem transmitterStep_fill (s : State) : (transmitterStep s).fill = s.fill := rfl
@[simp] theorem transmitterStep_todo (s : State) : (transmitterStep s).todo = s.todo := rfl
@[simp] theorem transmitterStep_got (s : State) : (transmitterStep s).got = s.got := rfl
@[simp] theorem transmitterStep_res (s : State) : (transmitterStep s).res = s.res := rfl
@[simp] theorem transmitterStep_held (s : State) : (transmitterStep s).held = s.held := rfl
@[simp] theorem transmitterStep_flowOut (s : State) : (transmitterStep s).flowOut = s.flowOut := rfl

/-! ### flashEngineStep -/

@[simp] theorem flashEngineStep_cfg (s : State) : (flashEngineStep s).cfg = s.cfg := rfl
@[simp] theorem flashEngineStep_script (s : State) : (flashEngineStep s).script = s.script := rfl
@[simp] theorem flashEngineStep_tick (s : State) : (flashEngineStep s).tick = s.tick := rfl
@[simp] theorem flashEngineStep_seq (s : State) : (flashEngineStep s).seq = s.seq := rfl
@[simp] theorem flashEngineStep_active (s : State) : (flashEngineStep s).active = s.active := rfl
@[simp] theorem flashEngineStep_cmd (s : State) : (flashEngineStep s).cmd = s.cmd := rfl
@[simp] theorem flashEngineStep_reply (s : State) : (flashEngineStep s).reply = s.reply := rfl
@[simp] theorem flashEngineStep_hdr (s : State) : (flashEngineStep s).hdr = s.hdr := rfl
@[simp] theorem flashEngineStep_body (s : State) : (flashEngineStep s).body = s.body := rfl
@[simp] theorem flashEngineStep_record (s : State) : (flashEngineStep s).record = s.record := rfl
@[simp] theorem flashEngineStep_vaddr (s : State) : (flashEngineStep s).vaddr = s.vaddr := rfl
@[simp] theorem flashEngineStep_vcount (s : State) : (flashEngineStep s).vcount = s.vcount := rfl
@[simp] theorem flashEngineStep_I (s : State) : (flashEngineStep s).I = s.I := rfl
@[simp] theorem flashEngineStep_isave (s : State) : (flashEngineStep s).isave = s.isave := rfl
@[simp] theorem flashEngineStep_ivsel (s : State) : (flashEngineStep s).ivsel = s.ivsel := rfl
@[simp] theorem flashEngineStep_rxbuf (s : State) : (flashEngineStep s).rxbuf = s.rxbuf := rfl
@[simp] theorem flashEngineStep_head (s : State) : (flashEngineStep s).head = s.head := rfl
@[simp] theorem flashEngineStep_tail (s : State) : (flashEngineStep s).tail = s.tail := rfl
@[simp] theorem flashEngineStep_free (s : State) : (flashEngineStep s).free = s.free := rfl
@[simp] theorem flashEngineStep_paused (s : State) : (flashEngineStep s).paused = s.paused := rfl
@[simp] theorem flashEngineStep_txReady (s : State) : (flashEngineStep s).txReady = s.txReady := rfl
@[simp] theorem flashEngineStep_rxHw (s : State) : (flashEngineStep s).rxHw = s.rxHw := rfl
@[simp] theorem flashEngineStep_wireIn (s : State) : (flashEngineStep s).wireIn = s.wireIn := rfl
@[simp] theorem flashEngineStep_wireOut (s : State) : (flashEngineStep s).wireOut = s.wireOut := rfl
@[simp] theorem flashEngineStep_pagebuf (s : State) : (flashEngineStep s).pagebuf = s.pagebuf := rfl
@[simp] theorem flashEngineStep_pageStart (s : State) : (flashEngineStep s).pageStart = s.pageStart := rfl
@[simp] theorem flashEngineStep_dirty (s : State) : (flashEngineStep s).dirty = s.dirty := rfl
@[simp] theorem flashEngineStep_flash (s : State) : (flashEngineStep s).flash = s.flash := rfl
@[simp] theorem flashEngineStep_spmBusy (s : State) : (flashEngineStep s).spmBusy = false := rfl
@[simp] theorem flashEngineStep_rwwEnabled (s : State) : (flashEngineStep s).rwwEnabled = s.rwwEnabled := rfl
@[simp] theorem flashEngineStep_fill (s : State) : (flashEngineStep s).fill = s.fill := rfl
@[simp] theorem flashEngineStep_todo (s : State) : (flashEngineStep s).todo = s.todo := rfl
@[simp] theorem flashEngineStep_got (s : State) : (flashEngineStep s).got = s.got := rfl
@[simp] theorem flashEngineStep_res (s : State) : (flashEngineStep s).res = s.res := rfl
@[simp] theorem flashEngineStep_held (s : State) : (flashEngineStep s).held = s.held := rfl
@[simp] theorem flashEngineStep_flowOut (s : State) : (flashEngineStep s).flowOut = s.flowOut := rfl

end Sys2Proof.Machine
end

