-- ==== Sys2Proof/Laws/Memory.lean ====
section
/-! SUPPORT. Program memory: a read after a write, the canonical form kept, pages written and read back. -/

namespace Sys2Proof.Machine

theorem Memory.wf_nil : Memory.wf [] := by simp [Memory.wf]

theorem Memory.wf_tail {c : Host.Cell} {m : Memory} (h : Memory.wf (c :: m)) : Memory.wf m :=
  ⟨(List.pairwise_cons.1 h.1).2, fun d hd => h.2 d (List.mem_cons_of_mem _ hd)⟩

/-- An address below every listed one is not listed. -/
theorem Memory.read_unlisted {m : Memory} {x : Nat} (h : ∀ c ∈ m, x ≠ c.1) : Memory.read m x = Memory.blank := by
  induction m with
  | nil => rfl
  | cons c m ih =>
    obtain ⟨a, b⟩ := c
    rw [Memory.read, if_neg (h (a, b) (List.mem_cons_self ..))]
    exact ih fun d hd => h d (List.mem_cons_of_mem _ hd)

/-- A read after a write to the same address gives the byte written. -/
theorem Memory.read_write_same {m : Memory} (h : Memory.wf m) (x : Nat) (v : Byte) :
    Memory.read (Memory.write m x v) x = v := by
  induction m with
  | nil => unfold Memory.write; split <;> simp_all [Memory.read]
  | cons c m ih =>
    obtain ⟨a, b⟩ := c
    have hlt : ∀ d ∈ m, a < d.1 := fun d hd => (List.pairwise_cons.1 h.1).1 d hd
    unfold Memory.write
    split
    · split
      · rename_i hx hv
        rw [hv]
        refine Memory.read_unlisted fun d hd => ?_
        rcases List.mem_cons.1 hd with rfl | hd
        · exact Nat.ne_of_lt hx
        · exact Nat.ne_of_lt (Nat.lt_trans hx (hlt d hd))
      · simp [Memory.read]
    · split
      · rename_i hx
        subst hx
        split
        · rename_i hv
          rw [hv]
          exact Memory.read_unlisted fun d hd => Nat.ne_of_lt (hlt d hd)
        · simp [Memory.read]
      · rename_i hx
        rw [Memory.read, if_neg hx]
        exact ih (Memory.wf_tail h)

/-- A write leaves every other address alone. -/
theorem Memory.read_write_other (m : Memory) {x y : Nat} (v : Byte) (hy : y ≠ x) :
    Memory.read (Memory.write m x v) y = Memory.read m y := by
  induction m with
  | nil => unfold Memory.write; split <;> simp [Memory.read, hy]
  | cons c m ih =>
    obtain ⟨a, b⟩ := c
    unfold Memory.write
    split
    · split <;> simp [Memory.read, hy]
    · split
      · rename_i hx
        subst hx
        split <;> simp [Memory.read, hy]
      · by_cases hya : y = a <;> simp [Memory.read, hya, ih]

/-- Every address a write lists was listed or is the one written. -/
theorem Memory.mem_write {m : Memory} {x : Nat} {v : Byte} {c : Host.Cell} (h : c ∈ Memory.write m x v) :
    c ∈ m ∨ (c = (x, v) ∧ v ≠ Memory.blank) := by
  induction m with
  | nil => unfold Memory.write at h; split at h <;> simp_all
  | cons d m ih =>
    obtain ⟨a, b⟩ := d
    unfold Memory.write at h
    split at h
    · split at h <;> (simp_all; try tauto)
    · split at h
      · split at h <;> (simp_all; try tauto)
      · rcases List.mem_cons.1 h with rfl | h
        · simp
        · rcases ih h with h | h
          · exact .inl (List.mem_cons_of_mem _ h)
          · exact .inr h

/-- A write keeps the canonical form. -/
theorem Memory.wf_write {m : Memory} (h : Memory.wf m) (x : Nat) (v : Byte) : Memory.wf (Memory.write m x v) := by
  refine ⟨?_, fun c hc => ?_⟩
  · induction m with
    | nil => unfold Memory.write; split <;> simp
    | cons d m ih =>
      obtain ⟨a, b⟩ := d
      have hp := List.pairwise_cons.1 h.1
      unfold Memory.write
      split
      · rename_i hx
        split
        · exact h.1
        · refine List.pairwise_cons.2 ⟨fun e he => ?_, h.1⟩
          rcases List.mem_cons.1 he with rfl | he
          · exact hx
          · exact Nat.lt_trans hx (hp.1 e he)
      · rename_i hx
        split
        · rename_i hxa
          subst hxa
          split
          · exact hp.2
          · exact List.pairwise_cons.2 ⟨fun e he => hp.1 e he, hp.2⟩
        · rename_i hxa
          refine List.pairwise_cons.2 ⟨fun e he => ?_, ih (Memory.wf_tail h)⟩
          rcases Memory.mem_write he with he | ⟨rfl, -⟩
          · exact hp.1 e he
          · simp only; omega
  · rcases Memory.mem_write hc with hc | ⟨rfl, hv⟩
    · exact h.2 c hc
    · exact hv

/-- Writing a byte sequence keeps the canonical form. -/
theorem Memory.wf_writeBytes {m : Memory} (h : Memory.wf m) (a : Nat) (bs : List Byte) :
    Memory.wf (Memory.writeBytes m a bs) := by
  induction bs generalizing m a with
  | nil => exact h
  | cons b bs ih => exact ih (Memory.wf_write h a b) (a + 1)

/-- Every address a sequence lists was listed or is one of those written. -/
theorem Memory.mem_writeBytes {m : Memory} {a : Nat} {bs : List Byte} {c : Host.Cell}
    (h : c ∈ Memory.writeBytes m a bs) : c ∈ m ∨ (a ≤ c.1 ∧ c.1 < a + bs.length) := by
  induction bs generalizing m a with
  | nil => exact .inl h
  | cons b bs ih =>
    rcases ih h with h | ⟨h1, h2⟩
    · rcases Memory.mem_write h with h | ⟨rfl, -⟩
      · exact .inl h
      · right; simp
    · right; simp only [List.length_cons]; omega

/-- What an address reads as after a byte sequence is written: its byte of the sequence, or what it read as before. -/
theorem Memory.read_writeBytes {m : Memory} (h : Memory.wf m) (a : Nat) (bs : List Byte) (x : Nat) :
    Memory.read (Memory.writeBytes m a bs) x =
      if a ≤ x ∧ x < a + bs.length then bs.getD (x - a) 0 else Memory.read m x := by
  induction bs generalizing m a with
  | nil => rw [Memory.writeBytes, if_neg (by simp)]
  | cons b bs ih =>
    rw [Memory.writeBytes, ih (Memory.wf_write h a b)]
    by_cases hx : x = a
    · subst hx
      rw [if_neg (by omega), Memory.read_write_same h, if_pos (by simp)]
      simp
    · rw [Memory.read_write_other m b hx]
      by_cases hin : a ≤ x ∧ x < a + (b :: bs).length
      · rw [if_pos hin, if_pos (by simp at hin; omega)]
        obtain ⟨k, hk⟩ : ∃ k, x - a = k + 1 := ⟨x - a - 1, by omega⟩
        rw [hk, show x - (a + 1) = k by omega, List.getD_cons_succ]
      · rw [if_neg hin, if_neg (by simp at hin ⊢; omega)]

theorem Memory.readBytes_length (m : Memory) (a : Word16) (n : Nat) : (Memory.readBytes m a n).length = n := by
  simp [Memory.readBytes]

theorem Memory.readBytes_getD (m : Memory) (a : Word16) {n k : Nat} (hk : k < n) :
    (Memory.readBytes m a n).getD k 0 = Memory.read m ((a.toNat + k) % 65536) := by
  simp [Memory.readBytes, List.getD_eq_getElem?_getD, hk]

/-- A MemRead that answers: the section is readable, every index is inside program memory, and the bytes are those of flash. -/
theorem memRead_ok {a : Word16} {n : Nat} {s : State} {bs : List Byte} (h : memRead a n s = .ok bs) :
    s.rwwEnabled = true ∧ (∀ k < n, (a.toNat + k) % 65536 < s.cfg.flashSize) ∧ bs = Memory.readBytes s.flash a n := by
  unfold memRead at h
  split at h
  · simp at h
  · split at h
    · rename_i h1 h2
      simp only [Except.ok.injEq] at h
      refine ⟨by simpa using h1, fun k hk => ?_, h.symm⟩
      simpa using List.all_eq_true.1 h2 k (List.mem_range.2 hk)
    · simp at h

/-- When a MemRead answers. -/
theorem memRead_of {a : Word16} {n : Nat} {s : State} (h1 : s.rwwEnabled = true)
    (h2 : ∀ k < n, (a.toNat + k) % 65536 < s.cfg.flashSize) : memRead a n s = .ok (Memory.readBytes s.flash a n) := by
  unfold memRead
  rw [if_neg (by simp [h1]), if_pos (List.all_eq_true.2 fun k hk => by simpa using h2 k (List.mem_range.1 hk))]

/-- The only faults of a MemRead. -/
theorem memRead_error {a : Word16} {n : Nat} {s : State} {f : Fault} (h : memRead a n s = .error f) :
    (f = .flashReadWhileBusy ∧ s.rwwEnabled = false) ∨ f = .flashAddressOutOfRange := by
  unfold memRead at h
  split at h
  · rename_i hr
    exact .inl ⟨by simpa using h.symm, by simpa using hr⟩
  · split at h
    · simp at h
    · exact .inr (by simpa using h.symm)

/-- The page base as a number. -/
theorem pageBase_toNat (ps : Nat) (a : Word16) : (pageBase ps a).toNat = a.toNat - a.toNat % ps := by
  have := a.isLt
  simp only [pageBase, BitVec.toNat_ofNat]
  exact Nat.mod_eq_of_lt (by omega)

/-- The page base is aligned. -/
theorem pageBase_aligned (ps : Nat) (a : Word16) : (pageBase ps a).toNat % ps = 0 := by
  rw [pageBase_toNat]
  exact Nat.sub_mod_eq_zero_of_mod_eq (by simp)

/-- An aligned page that begins below an aligned bound ends at or below it. -/
theorem page_below {ps p n : Nat} (hp : p % ps = 0) (hn : n % ps = 0) (h : p < n) : p + ps ≤ n := by
  obtain ⟨i, rfl⟩ := Nat.dvd_of_mod_eq_zero hp
  obtain ⟨j, rfl⟩ := Nat.dvd_of_mod_eq_zero hn
  have : i < j := Nat.lt_of_mul_lt_mul_left h
  calc ps * i + ps = ps * (i + 1) := by rw [Nat.mul_succ]
    _ ≤ ps * j := Nat.mul_le_mul_left _ this

end Sys2Proof.Machine
end

