-- ==== Sys2Proof/Laws/Operands.lean ====
section
/-! SUPPORT. Operand forms: bytes joined and taken apart, hexadecimal digits and pairs and their inverses. -/

namespace Sys2Proof.Machine

theorem hiByte_toNat (w : Word16) : (hiByte w).toNat = w.toNat / 256 := by
  have := w.isLt
  simp only [hiByte, BitVec.extractLsb'_toNat, Nat.shiftRight_eq_div_pow]
  omega

theorem loByte_toNat (w : Word16) : (loByte w).toNat = w.toNat % 256 := by
  simp only [loByte, BitVec.extractLsb'_toNat, Nat.shiftRight_eq_div_pow]
  omega

theorem joinBytes_toNat (hi lo : Byte) : (joinBytes hi lo).toNat = 256 * hi.toNat + lo.toNat := by
  have := hi.isLt
  have := lo.isLt
  simp only [joinBytes, BitVec.toNat_ofNat]
  omega

@[simp] theorem hiByte_joinBytes (hi lo : Byte) : hiByte (joinBytes hi lo) = hi := by
  have := lo.isLt
  apply BitVec.eq_of_toNat_eq
  rw [hiByte_toNat, joinBytes_toNat]
  omega

@[simp] theorem loByte_joinBytes (hi lo : Byte) : loByte (joinBytes hi lo) = lo := by
  have := lo.isLt
  apply BitVec.eq_of_toNat_eq
  rw [loByte_toNat, joinBytes_toNat]
  omega

@[simp] theorem joinBytes_hiByte_loByte (w : Word16) : joinBytes (hiByte w) (loByte w) = w := by
  apply BitVec.eq_of_toNat_eq
  rw [joinBytes_toNat, hiByte_toNat, loByte_toNat]
  omega

/-- Two hexadecimal characters made of a byte decode to it (41_hex_decoder.md rule R167). -/
theorem decByte_hexPair (b : Byte) : decByte (hexChar (b >>> 4)) (hexChar (b &&& 0x0F)) = some b := by
  revert b; decide

/-- A digit character is the one its value is written with (rule R167). -/
theorem hexChar_of_hexVal {c v : Byte} (h : hexVal c = some v) : hexChar v = c ∧ v.toNat < 16 := by
  have key : ∀ c : Byte, ∀ v ∈ hexVal c, hexChar v = c ∧ v.toNat < 16 := by decide
  exact key c v h

/-- A pair of digits that decodes to a byte is the one the byte is written with (rule R167). -/
theorem hexPair_of_decByte {c1 c0 b : Byte} (h : decByte c1 c0 = some b) : hexPair b = [c1, c0] := by
  unfold decByte at h
  split at h
  · rename_i hv lv h1 h0
    obtain ⟨rfl, hb1⟩ := hexChar_of_hexVal h1
    obtain ⟨rfl, hb0⟩ := hexChar_of_hexVal h0
    simp only [Option.some.injEq] at h
    subst h
    have hn : (16 * hv + lv).toNat = 16 * hv.toNat + lv.toNat := by
      simp [BitVec.toNat_add, BitVec.toNat_mul]; omega
    have e1 : (16 * hv + lv) >>> 4 = hv := by
      apply BitVec.eq_of_toNat_eq
      rw [BitVec.toNat_ushiftRight, hn, Nat.shiftRight_eq_div_pow]; omega
    have e0 : (16 * hv + lv) &&& 0x0F = lv := by
      apply BitVec.eq_of_toNat_eq
      rw [BitVec.toNat_and, hn, show (BitVec.toNat (0x0F : Byte)) = 2 ^ 4 - 1 from rfl, Nat.and_two_pow_sub_one_eq_mod]
      omega
    rw [hexPair, e1, e0]
  · simp at h

/-- Character pairs made of bytes decode to them, whatever follows. -/
theorem decPairs_hexPairs (p rest : List Byte) : decPairs p.length (p.flatMap hexPair ++ rest) = some (p, rest) := by
  induction p with
  | nil => simp [decPairs]
  | cons b p ih =>
    show decPairs (p.length + 1) (hexChar (b >>> 4) :: hexChar (b &&& 0x0F) :: (p.flatMap hexPair ++ rest)) = _
    rw [decPairs, decByte_hexPair, ih]

/-- Character pairs that decode are the ones their bytes are written with. -/
theorem hexPairs_of_decPairs {n : Nat} {cs p rest : List Byte} (h : decPairs n cs = some (p, rest)) :
    cs = p.flatMap hexPair ++ rest ∧ p.length = n := by
  induction n generalizing cs p with
  | zero => simp [decPairs] at h; obtain ⟨rfl, rfl⟩ := h; simp
  | succ n ih =>
    match cs, h with
    | c1 :: c0 :: cs, h =>
      rw [decPairs] at h
      split at h
      · rename_i b bs r hb hr
        simp only [Option.some.injEq, Prod.mk.injEq] at h
        obtain ⟨rfl, rfl⟩ := h
        obtain ⟨rfl, hl⟩ := ih hr
        rw [List.flatMap_cons, hexPair_of_decByte hb]
        simp [hl]
      · simp at h
    | [_], h => simp [decPairs] at h
    | [], h => simp [decPairs] at h

/-- A header whose byte count decodes announces its body's length. -/
theorem bodyLength_of {h : Header} {n : Byte} (hn : decByte h.n1 h.n0 = some n) : bodyLength h = 2 * n.toNat + 2 := by
  simp [bodyLength, hn]

/-- The header characters are the nine of the header. -/
theorem headerOf_headerChars (h : Header) (rest : List Byte) : headerOf (headerChars h ++ rest) = some (h, rest) := rfl

/-- A header that was found is what the characters begin with. -/
theorem headerOf_some {bs rest : List Byte} {h : Header} (hh : headerOf bs = some (h, rest)) :
    bs = headerChars h ++ rest := by
  unfold headerOf at hh
  split at hh
  · simp only [Option.some.injEq, Prod.mk.injEq] at hh
    obtain ⟨rfl, rfl⟩ := hh
    rfl
  · simp at hh

/-- The checksum a sender computes makes the sum zero (30_encoding.md rule R97). -/
theorem recordSum_checksumOf (n : Byte) (a : Word16) (t : Byte) (p : List Byte) :
    recordSum n a t p (checksumOf n a t p) = 0 := by
  unfold checksumOf recordSum
  generalize n + hiByte a + loByte a + t + byteSum p = x
  show x + -(x + 0#8) = 0
  rw [BitVec.add_zero, BitVec.add_right_neg]
  rfl

/-- Two characters a byte. -/
theorem hexPairs_length (p : List Byte) : (p.flatMap hexPair).length = 2 * p.length := by
  induction p with
  | nil => rfl
  | cons b p ih => simp [List.flatMap_cons, hexPair, ih]; omega

/-- An address field that decodes is the one its two bytes are written with (41_hex_decoder.md rule R162). -/
theorem dec16_some {c3 c2 c1 c0 : Byte} {a : Word16} (h : dec16 c3 c2 c1 c0 = some a) :
    decByte c3 c2 = some (hiByte a) ∧ decByte c1 c0 = some (loByte a) := by
  unfold dec16 at h
  split at h
  · obtain rfl := Option.some.inj h
    simp_all
  · simp at h

theorem dec16_of {c3 c2 c1 c0 : Byte} {a : Word16} (h1 : decByte c3 c2 = some (hiByte a))
    (h0 : decByte c1 c0 = some (loByte a)) : dec16 c3 c2 c1 c0 = some a := by
  simp [dec16, h1, h0]

/-- Nine characters or more begin with a header. -/
theorem headerOf_none {bs : List Byte} : headerOf bs = none ↔ bs.length < 9 := by
  constructor
  · intro h
    by_contra hc
    match bs, h, hc with
    | _ :: _ :: _ :: _ :: _ :: _ :: _ :: _ :: _ :: _, h, _ => simp [headerOf] at h
    | [], _, hc | [_], _, hc | [_, _], _, hc | [_, _, _], _, hc | [_, _, _, _], _, hc | [_, _, _, _, _], _, hc
    | [_, _, _, _, _, _], _, hc | [_, _, _, _, _, _, _], _, hc | [_, _, _, _, _, _, _, _], _, hc => simp at hc
  · intro h
    unfold headerOf
    split
    · simp at h; omega
    · rfl

/-- DECREC on a line whose digits are all good: the record, or ChecksumError (rule R164). -/
theorem decRec_of {h : Header} {n t ck c1 c0 : Byte} {a : Word16} {p rest body : List Byte}
    (hm : h.marker = startMarker) (hn : decByte h.n1 h.n0 = some n) (ha : dec16 h.a3 h.a2 h.a1 h.a0 = some a)
    (ht : decByte h.t1 h.t0 = some t) (hp : decPairs n.toNat body = some (p, c1 :: c0 :: rest))
    (hc : decByte c1 c0 = some ck) :
    decRec h body = if recordSum n a t p ck = 0 then .ok ⟨n, a, t, p, ck⟩ else .error .checksum := by
  rw [decRec, if_neg (by simp [hm]), hn]
  simp only [decFields, ha, ht, hp, hc]

/-- A record DECREC returns: what its line was made of (rule R164). -/
theorem decRec_ok {h : Header} {body : List Byte} {r : HexRecord} (hr : decRec h body = .ok r) :
    h.marker = startMarker ∧ decByte h.n1 h.n0 = some r.byteCount ∧ dec16 h.a3 h.a2 h.a1 h.a0 = some r.address ∧
    decByte h.t1 h.t0 = some r.recordType ∧
    ∃ c1 c0 rest, decPairs r.byteCount.toNat body = some (r.payload, c1 :: c0 :: rest) ∧
      decByte c1 c0 = some r.checksum ∧ recordSum r.byteCount r.address r.recordType r.payload r.checksum = 0 := by
  unfold decRec decFields at hr
  split at hr
  · simp at hr
  rename_i hm
  split at hr
  · simp at hr
  rename_i n hn
  split at hr
  · simp at hr
  rename_i a ha
  split at hr
  · simp at hr
  rename_i t ht
  split at hr
  · simp at hr
  · rename_i p c1 c0 rest hp
    split at hr
    · simp at hr
    rename_i ck hc
    split at hr
    · rename_i hs
      simp only [Except.ok.injEq] at hr
      subst hr
      exact ⟨by simpa using hm, hn, ha, ht, c1, c0, rest, hp, hc, hs⟩
    · simp at hr
  · simp at hr

/-- A header DECHDR accepts (rule R163). -/
theorem decHdr_ok {h : Header} {n t : Byte} (hh : decHdr h = .ok (n, t)) :
    h.marker = startMarker ∧ decByte h.n1 h.n0 = some n ∧ decByte h.t1 h.t0 = some t := by
  unfold decHdr at hh
  split at hh
  · simp at hh
  rename_i hm
  split at hh
  · simp at hh
  rename_i n' hn
  split at hh
  · simp at hh
  rename_i t' ht
  simp only [Except.ok.injEq, Prod.mk.injEq] at hh
  obtain ⟨rfl, rfl⟩ := hh
  exact ⟨by simpa using hm, hn, ht⟩

theorem decHdr_of {h : Header} {n t : Byte} (hm : h.marker = startMarker) (hn : decByte h.n1 h.n0 = some n)
    (ht : decByte h.t1 h.t0 = some t) : decHdr h = .ok (n, t) := by
  simp [decHdr, hm, hn, ht]

end Sys2Proof.Machine
end

