-- ==== Sys2Proof/Laws/Ops.lean ====
section
/-! SUPPORT. For each shared operation, once, everything it can do: what its answer is and under which conditions. -/

namespace Sys2Proof.Machine

/-! ### Conditions -/

theorem queueFilled_iff (s : State) : queueFilled s = true ↔ s.free < s.cfg.rxCap := by simp [queueFilled]

theorem receiveEnabled_iff (s : State) : receiveEnabled s = true ↔ s.I = true ∧ s.rxHw ≠ [] := by
  simp [receiveEnabled, receivePending]

theorem covered_iff (a : Word16) (s : State) : covered a s = true ↔
    s.dirty = true ∧ s.pageStart.toNat ≤ a.toNat ∧ a.toNat < s.pageStart.toNat + s.cfg.pageSize := by
  simp [covered, and_assoc]

/-! ### Sending -/

theorem transmit_ready {s : State} (h : s.txReady = true) (b : Byte) (again : Task) : transmit b again s = emit b s := by
  simp [transmit, h]

theorem transmit_busy {s : State} (h : s.txReady = false) (b : Byte) (again : Task) :
    transmit b again s = push again s := by
  simp [transmit, h]

/-! ### Critical sections -/

/-- Entering a section and leaving it gives the state back (43_flash_programmer.md rule R207). -/
@[simp] theorem leaveSection_enterSection (s : State) : leaveSection (enterSection s) = s := rfl

/-! ### The self-programming port -/

theorem pageCheck_ok {a : Word16} {s : State} {u : Unit} (h : pageCheck a s = .ok u) :
    s.spmBusy = false ∧ a.toNat < s.cfg.flashSize ∧ a.toNat < s.cfg.bootStart.toNat := by
  unfold pageCheck at h
  split at h
  · simp at h
  · split at h
    · simp at h
    · split at h
      · simp at h
      · rename_i h1 h2 h3
        exact ⟨by simpa using h1, by omega, by omega⟩

theorem pageCheck_of {a : Word16} {s : State} (h1 : s.spmBusy = false) (h2 : a.toNat < s.cfg.flashSize)
    (h3 : a.toNat < s.cfg.bootStart.toNat) : pageCheck a s = .ok () := by
  unfold pageCheck
  rw [if_neg (by simp [h1]), if_neg (by omega), if_neg (by omega)]

/-- The faults of a page operation that is issued with the port free. -/
theorem pageCheck_error {a : Word16} {s : State} {f : Fault} (hb : s.spmBusy = false) (h : pageCheck a s = .error f) :
    f = .flashAddressOutOfRange ∨ f = .flashWriteToBootSection := by
  unfold pageCheck at h
  rw [if_neg (by simp [hb])] at h
  split at h
  · exact .inl (by simpa using h.symm)
  · split at h
    · exact .inr (by simpa using h.symm)
    · simp at h

/-- A page erase that answers (rule R202). -/
theorem flashErase_ok {a : Word16} {s t : State} (h : flashErase a s = .ok t) :
    s.spmBusy = false ∧ a.toNat < s.cfg.flashSize ∧ a.toNat < s.cfg.bootStart.toNat ∧
    t = { s with
      spmBusy := true
      rwwEnabled := false
      flash := Memory.writeBytes s.flash a.toNat (List.replicate s.cfg.pageSize 0xFF) } := by
  unfold flashErase at h
  split at h
  · simp at h
  · rename_i u hu
    obtain ⟨h1, h2, h3⟩ := pageCheck_ok hu
    exact ⟨h1, h2, h3, (Except.ok.inj h).symm⟩

/-- A page program that answers (rule R203). -/
theorem flashProgram_ok {a : Word16} {s t : State} (h : flashProgram a s = .ok t) :
    s.spmBusy = false ∧ a.toNat < s.cfg.flashSize ∧ a.toNat < s.cfg.bootStart.toNat ∧
    t = { s with
      spmBusy := true
      rwwEnabled := false
      flash := Memory.writeBytes s.flash a.toNat
        ((List.range s.cfg.pageSize).map (fun k => Memory.read s.flash (a.toNat + k) &&& fillByte s.fill k)) } := by
  unfold flashProgram at h
  split at h
  · simp at h
  · rename_i u hu
    obtain ⟨h1, h2, h3⟩ := pageCheck_ok hu
    exact ⟨h1, h2, h3, (Except.ok.inj h).symm⟩

theorem flashRwwEnable_ok {s t : State} (h : flashRwwEnable s = .ok t) :
    s.spmBusy = false ∧ t = { s with rwwEnabled := true } := by
  unfold flashRwwEnable at h
  split at h
  · simp at h
  · rename_i hb
    exact ⟨by simpa using hb, (Except.ok.inj h).symm⟩

/-- Filling the latch never faults with the port free, and changes nothing but the latch, whose length it keeps. -/
theorem fillWords_ok (n j : Nat) {s : State} (hb : s.spmBusy = false) :
    ∃ f, fillWords n j s = .ok { s with fill := f } ∧ f.length = s.fill.length := by
  induction n generalizing j s with
  | zero => exact ⟨s.fill, rfl, rfl⟩
  | succ n ih =>
    rw [fillWords, flashFill, if_neg (by simp [hb])]
    obtain ⟨f, hf, hl⟩ := ih (j + 1)
      (s := { s with fill := s.fill.set (((s.pageStart.toNat + 2 * j) % s.cfg.pageSize) / 2) (pageWord s.pagebuf j) }) hb
    exact ⟨f, hf, by simpa using hl⟩

/-- Filling the latch, when it answers, changes nothing but the latch, whose length it keeps. -/
theorem fillWords_next {n j : Nat} {s t : State} (h : fillWords n j s = .ok t) :
    ∃ f, t = { s with fill := f } ∧ f.length = s.fill.length := by
  rcases Bool.eq_false_or_eq_true s.spmBusy with hb | hb
  · cases n with
    | zero => exact ⟨s.fill, (Except.ok.inj h).symm, rfl⟩
    | succ n =>
      rw [fillWords, flashFill, if_pos hb] at h
      simp at h
  · obtain ⟨f, hf, hl⟩ := fillWords_ok n j hb
    rw [hf] at h
    exact ⟨f, (Except.ok.inj h).symm, hl⟩

/-- On an aligned page the latch, filled from word `j` on, holds the staged words at `j` and above and keeps those below
(20_memory.md rule R69, 43_flash_programmer.md rule R203). -/
theorem fillWords_content (n j : Nat) {s : State} (hb : s.spmBusy = false) (hps : s.cfg.pageSize % 2 = 0)
    (ha : s.pageStart.toNat % s.cfg.pageSize = 0) (hn : n + j = s.cfg.pageSize / 2)
    (hl : s.fill.length = s.cfg.pageSize / 2) :
    ∃ f, fillWords n j s = .ok { s with fill := f } ∧ f.length = s.fill.length ∧
      ∀ k < s.cfg.pageSize / 2, f.getD k 0 = if j ≤ k then pageWord s.pagebuf k else s.fill.getD k 0 := by
  induction n generalizing j s with
  | zero =>
    refine ⟨s.fill, rfl, rfl, fun k hk => ?_⟩
    rw [if_neg (by omega)]
  | succ n ih =>
    have hidx : ((s.pageStart.toNat + 2 * j) % s.cfg.pageSize) / 2 = j := by
      rw [Nat.add_mod, ha, Nat.zero_add, Nat.mod_mod, Nat.mod_eq_of_lt (by omega)]
      omega
    rw [fillWords, flashFill, if_neg (by simp [hb]), hidx]
    obtain ⟨f, hf, hfl, hc⟩ := ih (j + 1) (s := { s with fill := s.fill.set j (pageWord s.pagebuf j) }) hb hps ha
      (by simp only; omega) (by simpa using hl)
    refine ⟨f, hf, by simpa using hfl, fun k hk => ?_⟩
    rw [hc k hk]
    simp only [List.getD_eq_getElem?_getD, List.getElem?_set]
    by_cases h1 : j + 1 ≤ k
    · rw [if_pos h1, if_pos (by omega)]
    · rw [if_neg h1]
      by_cases h2 : j = k
      · subst h2
        rw [if_pos rfl, if_pos (by omega), if_pos (le_refl _)]
        rfl
      · rw [if_neg h2, if_neg (by omega)]

/-- Filled from the staged page, the latch's bytes are the page's (rules R69, R203). -/
theorem fillByte_of_words {fill : List Word16} {pagebuf : List Byte} {ps k : Nat} (hps : ps % 2 = 0) (hk : k < ps)
    (h : ∀ j < ps / 2, fill.getD j 0 = pageWord pagebuf j) : fillByte fill k = pagebuf.getD k 0 := by
  unfold fillByte
  rw [h (k / 2) (by omega), pageWord]
  split
  · rw [loByte_joinBytes, show 2 * (k / 2) = k by omega]
  · rw [hiByte_joinBytes, show 2 * (k / 2) + 1 = k by omega]

/-! ### The parts of FLUSH -/

theorem flushErase_next {s t : State} (h : flushErase s = .next t) :
    (s.spmBusy = true ∧ t = push .flushErase s) ∨
    ∃ u, flashErase s.pageStart s = .ok u ∧ t = push .flushProgram u := by
  unfold flushErase at h
  split at h
  · rename_i hb
    exact .inl ⟨hb, (Host.Outcome.next.inj h).symm⟩
  · split at h
    · simp at h
    · rename_i u hu
      exact .inr ⟨u, hu, (Host.Outcome.next.inj h).symm⟩

theorem flushProgram_next {s t : State} (h : flushProgram s = .next t) :
    (s.spmBusy = true ∧ t = push .flushProgram s) ∨
    ∃ u v, s.spmBusy = false ∧ fillWords (s.cfg.pageSize / 2) 0 s = .ok u ∧ flashProgram u.pageStart u = .ok v ∧
      t = push .flushEnable v := by
  unfold flushProgram at h
  split at h
  · rename_i hb
    exact .inl ⟨hb, (Host.Outcome.next.inj h).symm⟩
  · rename_i hb
    split at h
    · simp at h
    · rename_i u hu
      split at h
      · simp at h
      · rename_i v hv
        exact .inr ⟨u, v, by simpa using hb, hu, hv, (Host.Outcome.next.inj h).symm⟩

theorem flushEnable_next {s t : State} (h : flushEnable s = .next t) :
    (s.spmBusy = true ∧ t = push .flushEnable s) ∨
    (s.spmBusy = false ∧ t = leaveSection { s with rwwEnabled := true }) := by
  unfold flushEnable at h
  split at h
  · rename_i hb
    exact .inl ⟨hb, (Host.Outcome.next.inj h).symm⟩
  · split at h
    · simp at h
    · rename_i u hu
      obtain ⟨hb, rfl⟩ := flashRwwEnable_ok hu
      exact .inr ⟨hb, (Host.Outcome.next.inj h).symm⟩

/-! ### Staging -/

/-- Anchoring that answers: the page lies in readable program memory, and the buffer is its copy (42_page_buffer.md rules
R181, R183). -/
theorem anchor_ok {a : Word16} {s t : State} (h : anchor a s = .ok t) :
    s.rwwEnabled = true ∧
    (∀ k < s.cfg.pageSize, ((pageBase s.cfg.pageSize a).toNat + k) % 65536 < s.cfg.flashSize) ∧
    t = { s with
      pageStart := pageBase s.cfg.pageSize a
      pagebuf := Memory.readBytes s.flash (pageBase s.cfg.pageSize a) s.cfg.pageSize
      dirty := true } := by
  unfold anchor at h
  split at h
  · simp at h
  · rename_i page hp
    obtain ⟨h1, h2, rfl⟩ := memRead_ok hp
    exact ⟨h1, h2, (Except.ok.inj h).symm⟩

/-- An anchored page covers the address it was anchored for. -/
theorem anchor_covers {a : Word16} {s t : State} (hps : 1 ≤ s.cfg.pageSize) (h : anchor a s = .ok t) :
    covered a t = true := by
  obtain ⟨-, -, rfl⟩ := anchor_ok h
  have hm := Nat.mod_lt a.toNat hps
  have hle := Nat.mod_le a.toNat s.cfg.pageSize
  rw [covered_iff]
  simp only [pageBase_toNat]
  exact ⟨trivial, by omega, by omega⟩

/-- STAGE's loop on one more byte: on the staged page, after a flush, or on a page anchored now (rule R182). -/
theorem stageLoop_cons {a : Word16} {b : Byte} {bs : List Byte} {s t : State}
    (h : stageLoop a (b :: bs) s = .next t) :
    (covered a s = true ∧ stageLoop (a + 1) bs (stageByte a b s) = .next t) ∨
    (covered a s = false ∧ s.dirty = true ∧ execFlush (push (.stageRest a (b :: bs)) s) = .next t) ∨
    (covered a s = false ∧ s.dirty = false ∧
      ∃ u, anchor a s = .ok u ∧ stageLoop (a + 1) bs (stageByte a b u) = .next t) := by
  rw [stageLoop] at h
  split at h
  · rename_i hc
    exact .inl ⟨hc, h⟩
  · rename_i hc
    split at h
    · rename_i hd
      exact .inr (.inl ⟨by simpa using hc, hd, h⟩)
    · rename_i hd
      split at h
      · simp at h
      · rename_i u hu
        exact .inr (.inr ⟨by simpa using hc, by simpa using hd, u, hu, h⟩)

/-! ### The receive queue -/

theorem enqueue_full {s : State} (h : s.free = 0) (b : Byte) : enqueue b s =
    { s with
      rxbuf := s.rxbuf.set s.head b
      head := (s.head + 1) % s.cfg.rxCap
      tail := (s.tail + 1) % s.cfg.rxCap } := by
  simp [enqueue, h]

theorem enqueue_room {s : State} (h : s.free ≠ 0) (b : Byte) : enqueue b s =
    { s with
      rxbuf := s.rxbuf.set s.head b
      head := (s.head + 1) % s.cfg.rxCap
      free := s.free - 1 } := by
  simp [enqueue, h]

/-- The end of RECV: back at the caller's interrupt flag, or held at Tx(XON) with the section open (40_transport.md rule
R134). -/
theorem finishReceive_cases (s : State) :
    (xonDue s = true ∧ s.txReady = true ∧ finishReceive s = leaveSection (emitXon s)) ∨
    (xonDue s = true ∧ s.txReady = false ∧ finishReceive s = push (.run .ctlXon) (push (.run .csLeave) s)) ∨
    (xonDue s = false ∧ finishReceive s = leaveSection s) := by
  unfold finishReceive
  cases xonDue s <;> cases s.txReady <;> simp

/-- The end of RXISR: XOFF sent, or the handler held at Tx(XOFF), or no XOFF due (rule R132). -/
theorem returnFromReceiveInterrupt_cases (s : State) :
    (xoffDue s = true ∧ s.txReady = true ∧ returnFromReceiveInterrupt s = emitXoff { s with held := false }) ∨
    (xoffDue s = true ∧ s.txReady = false ∧ returnFromReceiveInterrupt s = { s with held := true }) ∨
    (xoffDue s = false ∧ returnFromReceiveInterrupt s = { s with held := false }) := by
  unfold returnFromReceiveInterrupt
  cases xoffDue s <;> cases s.txReady <;> simp

end Sys2Proof.Machine
end

