-- ==== Sys2Proof/Laws/PerInstr.lean ====
section
/-! SUPPORT. One lemma per instruction: the length of its encoding (30_encoding.md rules R94, R100). -/

namespace Sys2Proof.Laws.EncodingShape

open Sys2Proof.Machine

/-- A well-formed instruction has at least one byte and at most as many as the longest, DECREC with 512 characters. -/
def Statement (i : Instr) : Prop :=
  ∀ ready : Byte, WellFormed i = true → 1 ≤ (encode ready i).length ∧ (encode ready i).length ≤ longestInstr

/-- An encoding of one fixed length. -/
theorem of_length {i : Instr} {n : Nat} (h : ∀ ready, (encode ready i).length = n) (h1 : 1 ≤ n) (h2 : n ≤ longestInstr) :
    Statement i :=
  fun ready _ => by rw [h ready]; exact ⟨h1, h2⟩

/-- A record line has eleven characters and two for each payload byte (rule R94). -/
theorem recordLine_length (r : HexRecord) : (recordLine r).length = 11 + 2 * r.payload.length := by
  simp [recordLine, hexPair]; omega

theorem bodyFits_length {h : Header} {body : List Byte} (hb : bodyFits h body = true) : body.length ≤ 512 := by
  unfold bodyFits at hb
  split at hb
  · rename_i n _
    have := n.isLt
    simp only [beq_iff_eq] at hb
    omega
  · simpa using hb

theorem send (b : Byte) : Statement (.send b) := of_length (n := 2) (fun _ => rfl) (by decide) (by decide)

theorem recv : Statement (.recv) := of_length (n := 1) (fun _ => rfl) (by decide) (by decide)

theorem rxisr : Statement (.rxisr) := of_length (n := 1) (fun _ => rfl) (by decide) (by decide)

theorem decbyte (c1 c0 : Byte) : Statement (.decbyte c1 c0) := of_length (n := 3) (fun _ => rfl) (by decide) (by decide)

theorem dechdr (hdr : Header) : Statement (.dechdr hdr) := of_length (n := 10) (fun _ => rfl) (by decide) (by decide)

theorem decrec (hdr : Header) (body : List Byte) : Statement (.decrec hdr body) := by
  intro ready h
  have := bodyFits_length h
  simp [encode, longestInstr, headerChars]; omega

theorem stage (address : Word16) (payload : List Byte) : Statement (.stage address payload) := by
  intro ready h
  have : payload.length ≤ 255 := by simpa [WellFormed] using h
  simp [encode, longestInstr]; omega

theorem flushPending : Statement (.flushPending) := of_length (n := 1) (fun _ => rfl) (by decide) (by decide)

theorem flush : Statement (.flush) := of_length (n := 1) (fun _ => rfl) (by decide) (by decide)

theorem csEnter : Statement (.csEnter) := of_length (n := 1) (fun _ => rfl) (by decide) (by decide)

theorem csLeave : Statement (.csLeave) := of_length (n := 1) (fun _ => rfl) (by decide) (by decide)

theorem handoff : Statement (.handoff) := of_length (n := 1) (fun _ => rfl) (by decide) (by decide)

theorem cmdQuit : Statement (.cmdQuit) := of_length (n := 1) (fun _ => rfl) (by decide) (by decide)

theorem cmdFuses : Statement (.cmdFuses) := of_length (n := 1) (fun _ => rfl) (by decide) (by decide)

theorem cmdInfo : Statement (.cmdInfo) := of_length (n := 1) (fun _ => rfl) (by decide) (by decide)

theorem cmdUpload : Statement (.cmdUpload) := of_length (n := 1) (fun _ => rfl) (by decide) (by decide)

theorem cmdVerify : Statement (.cmdVerify) := of_length (n := 1) (fun _ => rfl) (by decide) (by decide)

theorem cmdUnknown (c : Byte) : Statement (.cmdUnknown c) := of_length (n := 1) (fun _ => rfl) (by decide) (by decide)

theorem recData (address : Word16) (payload : List Byte) : Statement (.recData address payload) := by
  intro ready h
  have : payload.length ≤ 255 := by simpa [WellFormed] using h
  simp only [encode, recordLine_length, mkRecord, longestInstr]; omega

theorem recEof (address : Word16) (payload : List Byte) : Statement (.recEof address payload) := by
  intro ready h
  have : payload.length ≤ 255 := by simpa [WellFormed] using h
  simp only [encode, recordLine_length, mkRecord, longestInstr]; omega

theorem recEsa (n : Byte) (addr : AddrChars) : Statement (.recEsa n addr) := of_length (n := 9) (fun _ => rfl) (by decide) (by decide)

theorem recSsa (n : Byte) (addr : AddrChars) : Statement (.recSsa n addr) := of_length (n := 9) (fun _ => rfl) (by decide) (by decide)

theorem recEla (n : Byte) (addr : AddrChars) : Statement (.recEla n addr) := of_length (n := 9) (fun _ => rfl) (by decide) (by decide)

theorem recSla (n : Byte) (addr : AddrChars) : Statement (.recSla n addr) := of_length (n := 9) (fun _ => rfl) (by decide) (by decide)

theorem recOther (t n : Byte) (addr : AddrChars) : Statement (.recOther t n addr) := of_length (n := 9) (fun _ => rfl) (by decide) (by decide)

theorem stsOk (detail : BitVec 5) : Statement (.stsOk detail) := of_length (n := 1) (fun _ => rfl) (by decide) (by decide)

theorem stsUnknownCommand : Statement (.stsUnknownCommand) := of_length (n := 1) (fun _ => rfl) (by decide) (by decide)

theorem stsQuitting : Statement (.stsQuitting) := of_length (n := 1) (fun _ => rfl) (by decide) (by decide)

theorem stsNotImplemented : Statement (.stsNotImplemented) := of_length (n := 1) (fun _ => rfl) (by decide) (by decide)

theorem stsErrFraming : Statement (.stsErrFraming) := of_length (n := 1) (fun _ => rfl) (by decide) (by decide)

theorem stsErrHexDigit : Statement (.stsErrHexDigit) := of_length (n := 1) (fun _ => rfl) (by decide) (by decide)

theorem stsErrDecode : Statement (.stsErrDecode) := of_length (n := 1) (fun _ => rfl) (by decide) (by decide)

theorem stsErrChecksum : Statement (.stsErrChecksum) := of_length (n := 1) (fun _ => rfl) (by decide) (by decide)

theorem okPlain : Statement (.okPlain) := of_length (n := 1) (fun _ => rfl) (by decide) (by decide)

theorem okHeaderAccepted : Statement (.okHeaderAccepted) := of_length (n := 1) (fun _ => rfl) (by decide) (by decide)

theorem okPayloadAccepted : Statement (.okPayloadAccepted) := of_length (n := 1) (fun _ => rfl) (by decide) (by decide)

theorem okLineCommitted : Statement (.okLineCommitted) := of_length (n := 1) (fun _ => rfl) (by decide) (by decide)

theorem okFinished : Statement (.okFinished) := of_length (n := 1) (fun _ => rfl) (by decide) (by decide)

theorem ctlXon : Statement (.ctlXon) := of_length (n := 1) (fun _ => rfl) (by decide) (by decide)

theorem ctlXoff : Statement (.ctlXoff) := of_length (n := 1) (fun _ => rfl) (by decide) (by decide)

theorem ctlReady : Statement (.ctlReady) := of_length (n := 1) (fun _ => rfl) (by decide) (by decide)

end Sys2Proof.Laws.EncodingShape
end

