-- ==== Sys2Proof/Laws/Step.lean ====
section
/-! SUPPORT. Everything one step can do, said once: which agent's step it was, and the elementary updates it is made of. A
property that every elementary update keeps is kept by every step (step_keeps). -/

namespace Sys2Proof.Machine

/-! ### Which agent stepped -/

@[simp] theorem afterChoice_cfg (s : State) : (afterChoice s).cfg = s.cfg := by unfold afterChoice; split <;> rfl

/-- The choice of an agent uses up one element of the script or one free choice, and changes nothing else. -/
theorem afterChoice_eq (s : State) : ∃ es n, afterChoice s = { s with script := es, tick := n } := by
  unfold afterChoice
  split
  · exact ⟨_, s.tick, rfl⟩
  · exact ⟨s.script, _, rfl⟩

/-- A step that answers is one agent's step under an admissible configuration (00_scope.md rules R9, R14). -/
theorem step_next {s t : State} (h : step s = .next t) :
    s.cfg.Admissible ∧ agentStep (nextEvent s) (afterChoice s) = .next t := by
  unfold step at h
  split at h
  · rename_i ha
    exact ⟨ha, h⟩
  · simp at h

/-- Under an admissible configuration a step is the chosen agent's step. -/
theorem step_of_admissible {s : State} (h : s.cfg.Admissible) : step s = agentStep (nextEvent s) (afterChoice s) := by
  rw [step, if_pos h]

/-- The agents' steps that answer. -/
theorem agentStep_next {e : Event} {s t : State} (h : agentStep e s = .next t) :
    (e = .sequencer ∧ s.held = true ∧ t = s) ∨
    (e = .sequencer ∧ s.held = false ∧ sequencerStep s = .next t) ∨
    (e = .receive ∧ s.held = true ∧ t = returnFromReceiveInterrupt s) ∨
    (e = .receive ∧ s.held = false ∧ receiveEnabled s = true ∧ s.ivsel = true ∧
      t = returnFromReceiveInterrupt (takeReceiveInterrupt s)) ∨
    (e = .receive ∧ s.held = false ∧ receiveEnabled s = false ∧ t = s) ∨
    (e = .transmitter ∧ t = transmitterStep s) ∨
    (e = .flashEngine ∧ t = flashEngineStep s) ∨
    (∃ b, e = .peer b ∧ t = peerStep b s) ∨
    (e = .peerTakes ∧ t = s) := by
  cases e <;> (try simp only [agentStep, receiveStep, exec, execRxisr] at h)
  · split at h
    · rename_i hh
      exact .inl ⟨rfl, hh, (Host.Outcome.next.inj h).symm⟩
    · rename_i hh
      exact .inr (.inl ⟨rfl, by simpa using hh, h⟩)
  · split at h
    · rename_i hh
      exact .inr (.inr (.inl ⟨rfl, hh, (Host.Outcome.next.inj h).symm⟩))
    · rename_i hh
      split at h
      · rename_i he
        split at h
        · rename_i hv
          exact .inr (.inr (.inr (.inl ⟨rfl, by simpa using hh, he, hv, (Host.Outcome.next.inj h).symm⟩)))
        · simp at h
      · rename_i he
        exact .inr (.inr (.inr (.inr (.inl ⟨rfl, by simpa using hh, by simpa using he, (Host.Outcome.next.inj h).symm⟩))))
  · exact .inr (.inr (.inr (.inr (.inr (.inl ⟨rfl, (Host.Outcome.next.inj h).symm⟩)))))
  · exact .inr (.inr (.inr (.inr (.inr (.inr (.inl ⟨rfl, (Host.Outcome.next.inj h).symm⟩))))))
  · rename_i b
    exact .inr (.inr (.inr (.inr (.inr (.inr (.inr (.inl ⟨b, rfl, (Host.Outcome.next.inj h).symm⟩)))))))
  · exact .inr (.inr (.inr (.inr (.inr (.inr (.inr (.inr ⟨rfl, (Host.Outcome.next.inj h).symm⟩)))))))

/-- A sequencer step that is to be taken is a task, or what `seq` does next. -/
theorem step_of_turn {s : State} (h : s.SequencerTurn) : step s = sequencerStep (afterChoice s) := by
  have hh : (afterChoice s).held = false := by
    obtain ⟨es, n, e⟩ := afterChoice_eq s
    rw [e]; exact h.notHeld
  rw [step, if_pos h.admissible, h.chosen, agentStep, if_neg (by simp [hh])]

/-! ### The elementary updates -/

/-- One elementary update of the state, with the condition under which a step makes it. `E` says that the step is the entry
of 70_reset_and_hazards.md rule R302, the only one that initialises the Transport. -/
inductive Micro (E : Prop) : State → State → Prop
  | control (s : State) (ts : List Task) : Micro E s { s with todo := ts }
  | choice (s : State) (es : List Event) (n : Nat) : Micro E s { s with script := es, tick := n }
  | goto (s : State) (q : SeqState) : Micro E s { s with seq := q }
  | working (s : State) (cmd reply : Byte) (hdr : Header) (body : List Byte) (record : HexRecord) (vaddr : Word16)
      (vcount : Byte) (got : List Byte) (res : Result) :
      Micro E s { s with
        cmd := cmd, reply := reply, hdr := hdr, body := body, record := record, vaddr := vaddr, vcount := vcount,
        got := got, res := res }
  | session (s : State) (b : Bool) : Micro E s { s with active := b }
  | masking (s : State) (b : Bool) (l : List Bool) : Micro E s { s with I := b, isave := l }
  | vector (s : State) (b : Bool) : Micro E s { s with ivsel := b }
  | hold (s : State) (b : Bool) : Micro E s { s with held := b }
  | sent (s : State) (b : Byte) (h : s.txReady = true) : Micro E s (emit b s)
  | xoff (s : State) (h : s.txReady = true) : Micro E s (emitXoff s)
  | xon (s : State) (h : s.txReady = true) : Micro E s (emitXon s)
  | dequeued (s : State) (h : queueFilled s = true) : Micro E s (dequeue s)
  | received (s : State) (b : Byte) (bs : List Byte) (h : s.rxHw = b :: bs) :
      Micro E s (enqueue b { s with rxHw := bs })
  | entered (s : State) (h : E) :
      Micro E s { s with head := 0, tail := 0, free := s.cfg.rxCap, paused := false, dirty := false }
  | anchored (a : Word16) (s t : State) (h : anchor a s = .ok t) : Micro E s t
  | staged (a : Word16) (b : Byte) (s : State) (h : covered a s = true) : Micro E s (stageByte a b s)
  | retired (s : State) : Micro E s { s with dirty := false }
  | erased (s t : State) (h : flashErase s.pageStart s = .ok t) : Micro E s t
  | filled (n : Nat) (s t : State) (h : fillWords n 0 s = .ok t) : Micro E s t
  | programmed (s t : State) (h : flashProgram s.pageStart s = .ok t) : Micro E s t
  | enabled (s : State) : Micro E s { s with rwwEnabled := true }
  | transmitter (s : State) : Micro E s (transmitterStep s)
  | flashEngine (s : State) : Micro E s (flashEngineStep s)
  | peer (b : Byte) (s : State) : Micro E s (peerStep b s)

/-- Any number of elementary updates. -/
abbrev Micros (E : Prop) := Relation.ReflTransGen (Micro E)

variable {E : Prop}

theorem Micros.refl (s : State) : Micros E s s := Relation.ReflTransGen.refl

theorem Micros.one {s t : State} (h : Micro E s t) : Micros E s t := Relation.ReflTransGen.single h

theorem Micros.snoc {s t u : State} (h : Micros E s t) (h' : Micro E t u) : Micros E s u := h.tail h'

theorem Micros.push {s t : State} (h : Micros E s t) (k : Task) : Micros E s (push k t) := h.tail (.control t (k :: t.todo))

theorem Micros.pushSends {s t : State} (h : Micros E s t) (bs : List Byte) : Micros E s (pushSends bs t) :=
  h.tail (.control t (bs.map (fun b => Task.run (.send b)) ++ t.todo))

theorem Micros.enter {s t : State} (h : Micros E s t) : Micros E s (enterSection t) := h.tail (.masking t _ _)

theorem Micros.leave {s t : State} (h : Micros E s t) : Micros E s (leaveSection t) := h.tail (.masking t _ _)

theorem Micros.seq {s t : State} (h : Micros E s t) (q : SeqState) : Micros E s { t with seq := q } := h.tail (.goto t q)

theorem Micros.result {s t : State} (h : Micros E s t) (r : Result) : Micros E s (returnResult r t) :=
  h.tail (.working t t.cmd t.reply t.hdr t.body t.record t.vaddr t.vcount t.got r)

theorem Micros.transmit {s t : State} (h : Micros E s t) (b : Byte) (again : Task) : Micros E s (transmit b again t) := by
  cases ht : t.txReady
  · rw [transmit_busy ht]; exact h.push again
  · rw [transmit_ready ht]; exact h.snoc (.sent t b ht)

theorem Micros.status {s t : State} (h : Micros E s t) (code : BitVec 3) (detail : BitVec 5) (again : Task) :
    Micros E s (sendStatus code detail again t) :=
  Micros.transmit (t := { t with reply := statusByte code detail })
    (h.snoc (.working t t.cmd (statusByte code detail) t.hdr t.body t.record t.vaddr t.vcount t.got t.res)) _ _

theorem Micros.finishReceive {s t : State} (h : Micros E s t) : Micros E s (finishReceive t) := by
  rcases finishReceive_cases t with ⟨-, ht, e⟩ | ⟨-, -, e⟩ | ⟨-, e⟩ <;> rw [e]
  · exact (h.snoc (.xon t ht)).leave
  · exact (h.push _).push _
  · exact h.leave

theorem Micros.returnFromInterrupt {s t : State} (h : Micros E s t) : Micros E s (returnFromReceiveInterrupt t) := by
  rcases returnFromReceiveInterrupt_cases t with ⟨-, ht, e⟩ | ⟨-, -, e⟩ | ⟨-, e⟩ <;> rw [e]
  · exact (h.snoc (.hold t false)).snoc (.xoff _ ht)
  · exact h.snoc (.hold t true)
  · exact h.snoc (.hold t false)

theorem Micros.takeInterrupt {s t : State} (h : Micros E s t) : Micros E s (takeReceiveInterrupt t) := by
  unfold takeReceiveInterrupt
  split
  · exact h
  · rename_i b bs hr
    exact h.snoc (.received t b bs hr)

theorem Micros.recv {s t u : State} (h : Micros E s t) (hx : execRecv t = .next u) : Micros E s u := by
  unfold execRecv at hx
  split at hx
  · rename_i hq
    rw [← Host.Outcome.next.inj hx]
    exact (h.enter.snoc (.dequeued (enterSection t) hq)).finishReceive
  · rw [← Host.Outcome.next.inj hx]
    exact h.push _

theorem Micros.flushErase {s t u : State} (h : Micros E s t) (hx : flushErase t = .next u) : Micros E s u := by
  rcases flushErase_next hx with ⟨-, rfl⟩ | ⟨v, hv, rfl⟩
  · exact h.push _
  · exact (h.snoc (.erased t v hv)).push _

theorem Micros.flushProgram {s t u : State} (h : Micros E s t) (hx : flushProgram t = .next u) : Micros E s u := by
  rcases flushProgram_next hx with ⟨-, rfl⟩ | ⟨v, w, -, hv, hw, rfl⟩
  · exact h.push _
  · exact ((h.snoc (.filled _ t v hv)).snoc (.programmed v w hw)).push _

theorem Micros.flushEnable {s t u : State} (h : Micros E s t) (hx : flushEnable t = .next u) : Micros E s u := by
  rcases flushEnable_next hx with ⟨-, rfl⟩ | ⟨-, rfl⟩
  · exact h.push _
  · exact (h.snoc (.enabled t)).leave

theorem Micros.flush {s t u : State} (h : Micros E s t) (hx : execFlush t = .next u) : Micros E s u :=
  Micros.flushErase h.enter hx

theorem Micros.stageLoop {p : List Byte} {a : Word16} {s t u : State} (h : Micros E s t) (hps : 1 ≤ t.cfg.pageSize)
    (hx : stageLoop a p t = .next u) : Micros E s u := by
  induction p generalizing a t with
  | nil => rw [← Host.Outcome.next.inj hx]; exact h.leave
  | cons b bs ih =>
    rcases stageLoop_cons hx with ⟨hc, hx⟩ | ⟨-, -, hx⟩ | ⟨-, -, v, hv, hx⟩
    · exact ih (h.snoc (.staged a b t hc)) hps hx
    · exact (h.push _).flush hx
    · refine ih ((h.snoc (.anchored a t v hv)).snoc (.staged a b v (anchor_covers hps hv))) ?_ hx
      obtain ⟨-, -, rfl⟩ := anchor_ok hv
      exact hps

theorem Micros.stage {p : List Byte} {a : Word16} {s t u : State} (h : Micros E s t) (hps : 1 ≤ t.cfg.pageSize)
    (hx : execStage a p t = .next u) : Micros E s u :=
  Micros.stageLoop h.enter hps hx

theorem Micros.flushPending {s t u : State} (h : Micros E s t) (hx : execFlushPending t = .next u) : Micros E s u := by
  unfold execFlushPending at hx
  split at hx
  · exact (h.enter.push _).flush hx
  · rw [← Host.Outcome.next.inj hx]
    exact h.enter.leave

theorem Micros.reply {s t u : State} (h : Micros E s t) (bs : List Byte) (hx : startReply bs t = .next u) :
    Micros E s u := by
  unfold startReply at hx
  split at hx
  · rw [← Host.Outcome.next.inj hx]; exact h
  · rw [← Host.Outcome.next.inj hx]; exact (h.pushSends _).transmit _ _

/-- An instruction that answers a next state has made elementary updates only. -/
theorem exec_micros {i : Instr} {s t u : State} (h : Micros E s t) (hps : 1 ≤ t.cfg.pageSize)
    (hx : exec i t = .next u) : Micros E s u := by
  cases i <;> simp only [exec] at hx
  case recv => exact h.recv hx
  case rxisr =>
    unfold execRxisr at hx
    split at hx <;> rw [← Host.Outcome.next.inj hx]
    · exact h.takeInterrupt.returnFromInterrupt
    · exact h.push _
  case stage => exact h.stage hps hx
  case flushPending => exact h.flushPending hx
  case flush => exact h.flush hx
  case csLeave =>
    unfold execCsLeave at hx
    split at hx
    · simp at hx
    · rw [← Host.Outcome.next.inj hx]; exact h.leave
  case recData => exact Micros.stage (t := push _ (push _ t)) ((h.push _).push _) hps hx
  case recEof => exact Micros.flushPending ((h.push _).push _) hx
  case cmdFuses => exact Micros.reply (h.seq _) _ hx
  case cmdInfo => exact Micros.reply (h.seq _) _ hx
  case ctlXon =>
    rw [← Host.Outcome.next.inj hx]
    split
    · rename_i ht; exact h.snoc (.xon t ht)
    · exact h.push _
  case ctlXoff =>
    rw [← Host.Outcome.next.inj hx]
    split
    · rename_i ht; exact h.snoc (.xoff t ht)
    · exact h.push _
  case handoff =>
    rw [← Host.Outcome.next.inj hx]
    exact (((h.snoc (.masking t false t.isave)).snoc (.vector _ false)).snoc (.goto _ .handedOff)).snoc (.control _ [])
  case csEnter => rw [← Host.Outcome.next.inj hx]; exact h.enter
  case cmdUpload => rw [← Host.Outcome.next.inj hx]; exact h.seq _
  case cmdVerify => rw [← Host.Outcome.next.inj hx]; exact h.seq _
  case cmdQuit => rw [← Host.Outcome.next.inj hx]; exact (h.seq _).status _ _ _
  case cmdUnknown => rw [← Host.Outcome.next.inj hx]; exact ((h.seq _).push _).status _ _ _
  case decbyte => rw [← Host.Outcome.next.inj hx]; exact h.result _
  case dechdr => rw [← Host.Outcome.next.inj hx]; exact h.result _
  case decrec => rw [← Host.Outcome.next.inj hx]; exact h.result _
  case send => rw [← Host.Outcome.next.inj hx]; exact h.transmit _ _
  case ctlReady => rw [← Host.Outcome.next.inj hx]; exact h.transmit _ _
  case recEsa => rw [← Host.Outcome.next.inj hx]; exact (h.push _).status _ _ _
  case recSsa => rw [← Host.Outcome.next.inj hx]; exact (h.push _).status _ _ _
  case recEla => rw [← Host.Outcome.next.inj hx]; exact (h.push _).status _ _ _
  case recSla => rw [← Host.Outcome.next.inj hx]; exact (h.push _).status _ _ _
  case recOther => rw [← Host.Outcome.next.inj hx]; exact (h.push _).status _ _ _
  all_goals
    rw [← Host.Outcome.next.inj hx]
    exact h.status _ _ _

/-- Writing working registers only. -/
theorem Micros.workingRegisters {s t : State} (h : Micros E s t) (cmd reply : Byte) (hdr : Header) (body : List Byte)
    (record : HexRecord) (vaddr : Word16) (vcount : Byte) (got : List Byte) (res : Result) :
    Micros E s { t with
      cmd := cmd, reply := reply, hdr := hdr, body := body, record := record, vaddr := vaddr, vcount := vcount,
      got := got, res := res } :=
  h.snoc (.working t cmd reply hdr body record vaddr vcount got res)

theorem entry_micros {s t u : State} (h : Micros E s t) (hE : E) (hps : 1 ≤ t.cfg.pageSize)
    (hx : entry t = .next u) : Micros E s u := by
  unfold entry at hx
  refine exec_micros ?_ (by exact hps) hx
  refine Micros.push (t := { t with
    active := true, head := 0, tail := 0, free := t.cfg.rxCap, paused := false, dirty := false, ivsel := true, I := true,
    got := [] }) ?_ _
  exact ((((h.snoc (.entered t hE)).snoc (.session _ true)).snoc (.vector _ true)).snoc (.masking _ true t.isave)).snoc
    (.working _ t.cmd t.reply t.hdr t.body t.record t.vaddr t.vcount [] t.res)

theorem headerPhase_micros {s t u : State} (h : Micros E s t) (hps : 1 ≤ t.cfg.pageSize) (hx : headerPhase t = .next u) :
    Micros E s u := by
  unfold headerPhase at hx
  split at hx
  · exact h.recv hx
  · rename_i hd rest hh
    have hw : ∀ r, Micros E s (returnResult r { t with hdr := hd, got := rest }) := fun r =>
      h.workingRegisters t.cmd t.reply hd t.body t.record t.vaddr t.vcount rest r
    split at hx
    · exact exec_micros ((hw _).push _) hps hx
    · split at hx
      · exact exec_micros ((hw _).push _) hps hx
      · split at hx
        · rw [← Host.Outcome.next.inj hx]; exact (hw _).seq _
        · exact exec_micros (hw _) hps hx

theorem bodyPhase_micros {s t u : State} (h : Micros E s t) (hps : 1 ≤ t.cfg.pageSize) (hx : bodyPhase t = .next u) :
    Micros E s u := by
  unfold bodyPhase at hx
  split at hx
  · rename_i e _
    exact exec_micros (Micros.push (h.workingRegisters t.cmd t.reply t.hdr (t.got.take (bodyLength t.hdr)) t.record
      t.vaddr t.vcount (t.got.drop (bodyLength t.hdr)) (.error e)) _) hps hx
  · rename_i r _
    exact exec_micros (h.workingRegisters t.cmd t.reply t.hdr (t.got.take (bodyLength t.hdr)) r t.vaddr t.vcount
      (t.got.drop (bodyLength t.hdr)) (.record r)) hps hx

theorem verifyPhase_micros {s t u : State} (h : Micros E s t) (hx : verifyPhase t = .next u) : Micros E s u := by
  unfold verifyPhase at hx
  split at hx
  · split at hx
    · simp at hx
    · exact Micros.reply
        (Micros.push (h.workingRegisters t.cmd t.reply t.hdr t.body t.record _ _ _ t.res) _) _ hx
  · exact h.recv hx

theorem runEncoded_micros {sp : Space} {bs : List Byte} {s t u : State} (h : Micros E s t) (hps : 1 ≤ t.cfg.pageSize)
    (hx : runEncoded sp bs t = .next u) : Micros E s u := by
  unfold runEncoded at hx
  split at hx
  · exact exec_micros h hps hx
  · simp at hx

theorem commandLoop_micros {s t u : State} (h : Micros E s t) (hps : 1 ≤ t.cfg.pageSize) (hx : commandLoop t = .next u) :
    Micros E s u := by
  unfold commandLoop at hx
  split at hx
  · exact exec_micros h hps hx
  · split at hx
    · exact h.recv hx
    · rename_i b rest hg
      exact runEncoded_micros
        (h.workingRegisters b t.reply t.hdr t.body t.record t.vaddr t.vcount rest t.res) hps hx

theorem advance_micros {s t u : State} (h : Micros E s t) (hE : t.seq = .reset → E) (hps : 1 ≤ t.cfg.pageSize) (hx : advance t = .next u) :
    Micros E s u := by
  unfold advance at hx
  split at hx
  · rename_i hq
    split at hx
    · exact entry_micros h (hE hq) hps hx
    · exact exec_micros h hps hx
  · exact commandLoop_micros h hps hx
  · exact headerPhase_micros h hps hx
  · split at hx
    · exact h.recv hx
    · exact bodyPhase_micros h hps hx
  · exact verifyPhase_micros h hx
  · rw [← Host.Outcome.next.inj hx]; exact h.seq _
  · rw [← Host.Outcome.next.inj hx]; exact h.seq _
  · rw [← Host.Outcome.next.inj hx]; exact h.seq _
  · exact exec_micros (h.snoc (.session t false)) hps hx
  · rw [← Host.Outcome.next.inj hx]; exact h

theorem runTask_micros {k : Task} {s t u : State} (h : Micros E s t) (hps : 1 ≤ t.cfg.pageSize)
    (hx : runTask k t = .next u) : Micros E s u := by
  cases k <;> simp only [runTask] at hx
  · exact exec_micros h hps hx
  · exact runEncoded_micros h hps hx
  · rw [← Host.Outcome.next.inj hx]; exact h.seq _
  · exact h.flushErase hx
  · exact h.flushProgram hx
  · exact h.flushEnable hx
  · unfold retire at hx; rw [← Host.Outcome.next.inj hx]; exact (h.snoc (.retired t)).leave
  · unfold stageRest at hx; exact Micros.stageLoop (h.snoc (.retired t)) hps hx

theorem sequencerStep_micros {s t u : State} (h : Micros E s t) (hE : t.seq = .reset → t.todo = [] → E)
    (hps : 1 ≤ t.cfg.pageSize)
    (hx : sequencerStep t = .next u) : Micros E s u := by
  unfold sequencerStep at hx
  split at hx
  · rename_i ht
    exact advance_micros h (fun hq => hE hq ht) hps hx
  · rename_i k ks _
    exact runTask_micros (h.snoc (.control t ks)) hps hx

/-- A step that answers has made elementary updates only. -/
theorem step_micros {s t : State} (hx : step s = .next t) : Micros (s.seq = .reset ∧ s.todo = []) s t := by
  obtain ⟨ha, hx⟩ := step_next hx
  obtain ⟨es, n, e⟩ := afterChoice_eq s
  have h : Micros (s.seq = .reset ∧ s.todo = []) s (afterChoice s) := by rw [e]; exact Micros.one (.choice s es n)
  have hps : 1 ≤ (afterChoice s).cfg.pageSize := by rw [afterChoice_cfg]; exact ha.2.2.2.2.1
  rcases agentStep_next hx with
    ⟨-, -, rfl⟩ | ⟨-, -, hq⟩ | ⟨-, -, rfl⟩ | ⟨-, -, -, -, rfl⟩ | ⟨-, -, -, rfl⟩ | ⟨-, rfl⟩ | ⟨-, rfl⟩ | ⟨b, -, rfl⟩ |
    ⟨-, rfl⟩
  · exact h
  · exact sequencerStep_micros h (fun h1 h2 => ⟨by rw [e] at h1; exact h1, by rw [e] at h2; exact h2⟩) hps hq
  · exact h.returnFromInterrupt
  · exact h.takeInterrupt.returnFromInterrupt
  · exact h
  · exact h.snoc (.transmitter _)
  · exact h.snoc (.flashEngine _)
  · exact h.snoc (.peer b _)
  · exact h

/-- What every elementary update keeps, every step keeps. -/
theorem step_keeps {P : State → Prop} {s t : State} (hP : ∀ u v, P u → Micro (s.seq = .reset ∧ s.todo = []) u v → P v)
    (hs : P s) (hx : step s = .next t) : P t := by
  have h := step_micros hx
  clear hx
  induction h with
  | refl => exact hs
  | tail _ hm ih => exact hP _ _ ih hm

end Sys2Proof.Machine
end

