-- ==== Sys2Proof/Tests/Slice0.lean ====
section
/-! SUPPORT. Tests: ill-formed terms, words written out from the spec's encodings, single steps with results worked out by hand
from the rules or taken from 95_test_vectors.md (named A, B, C, D there), and, for each statement that has hypotheses, a
theorem that meets them. -/

namespace Sys2Proof.Tests

open Sys2Proof.Machine

/-! ### States and readings -/

/-- Transport parameters of vector A16, and a small flash: four pages of four bytes, two of them below the boundary. -/
def cfg : Config where
  rxCap := 4
  xoffFree := 1
  xonFree := 2
  rxHwDepth := 1
  pageSize := 4
  flashSize := 16
  bootStart := 8
  appEntry := 0
  version := [0x76, 0x31]
  readyByte := 0x52
  fuses := ⟨0xF0, 0xF1, 0xF2, 0xF3⟩
  enable := true

/-- The launch state. -/
def fresh : State := State.resetWith cfg []

/-- The session is under way, in the command loop, with interrupts enabled and nothing queued. -/
def idle : State := { fresh with seq := .awaitCmd, active := true, I := true, ivsel := true }

/-- Two bytes are queued, the channel is not paused. -/
def queued : State := { idle with rxbuf := [0x75, 0x11, 0x00, 0x00], head := 2, free := 2 }

/-- The queue is full, slot 0 is next for reading and for writing. -/
def full : State := { idle with rxbuf := [0x10, 0x11, 0x12, 0x13], free := 0, paused := true, rxHw := [0x14] }

/-- Page 4 is staged. -/
def staged : State := { idle with pagebuf := [1, 2, 3, 4], pageStart := 4, dirty := true }

/-- The state with one agent chosen. -/
def chosen (e : Event) (s : State) : State := { s with script := [e] }

/-- The state with one task left. -/
def doing (t : Task) (s : State) : State := { s with todo := [t] }

/-- One reading of the next state, where there is one. -/
def reading {α : Type} (f : State → α) : Host.Outcome State Fault Refusal → Option α
  | .next s => some (f s)
  | .fault _ => none
  | .refused _ => none

/-- Whether there is a next state. -/
def goesOn (o : Host.Outcome State Fault Refusal) : Bool := (reading (fun _ => ()) o).isSome

theorem exists_next {o : Host.Outcome State Fault Refusal} (h : goesOn o = true) : ∃ t, o = .next t := by
  cases o with
  | next t => exact ⟨t, rfl⟩
  | fault f => cases h
  | refused r => cases h

/-- The characters of a text. -/
def text (t : String) : List Byte := t.toList.map (fun c => BitVec.ofNat 8 c.toNat)

/-- The header `:04001000`. -/
def hdr1 : Header := ⟨0x3A, 0x30, 0x34, 0x30, 0x30, 0x31, 0x30, 0x30, 0x30⟩

/-- The body `DEADBEEFB4`. -/
def body1 : List Byte := [0x44, 0x45, 0x41, 0x44, 0x42, 0x45, 0x45, 0x46, 0x42, 0x34]

/-- The record of vector D1. -/
def rec1 : HexRecord := ⟨4, 0x0010, 0, [0xDE, 0xAD, 0xBE, 0xEF], 0xB4⟩

/-! ### Ill-formed terms -/

theorem illformed_decrec_body : WellFormed (.decrec hdr1 (0x30 :: body1)) = false := by decide
theorem illformed_decrec_long : WellFormed (.decrec { hdr1 with n1 := 0x47 } (List.replicate 513 0)) = false := by
  have h : decByte 0x47 hdr1.n0 = none := by decide
  simp only [WellFormed, bodyFits, h]
  exact decide_eq_false (by rw [List.length_replicate]; decide)
theorem illformed_stage : WellFormed (.stage 0 (List.replicate 256 0)) = false := by
  simp only [WellFormed, List.length_replicate, -List.reduceReplicate]; decide
theorem illformed_command : WellFormed (.cmdUnknown 0x75) = false := by decide
theorem illformed_data : WellFormed (.recData 0 (List.replicate 256 0)) = false := by
  simp only [WellFormed, List.length_replicate, -List.reduceReplicate]; decide
theorem illformed_eof : WellFormed (.recEof 0 (List.replicate 256 0)) = false := by
  simp only [WellFormed, List.length_replicate, -List.reduceReplicate]; decide
theorem illformed_other : WellFormed (.recOther 0x05 0 ⟨0, 0, 0, 0⟩) = false := by decide
theorem illformed_ok : WellFormed (.stsOk 4) = false := by decide

/-! ### Words written out (30_encoding.md) -/

/-! Select codes of rule R112; the operand layout is log entry 9's. -/

theorem decode_send : decode 0x52 .op [0x00, 0x40] = some (.send 0x40, []) := by decide

theorem decode_recv : decode 0x52 .op [0x01] = some (.recv, []) := by decide

theorem decode_rxisr : decode 0x52 .op [0x02] = some (.rxisr, []) := by decide

theorem decode_decbyte : decode 0x52 .op [0x03, 0x42, 0x34] = some (.decbyte 0x42 0x34, []) := by decide

theorem decode_dechdr : decode 0x52 .op [0x04, 0x3A, 0x30, 0x34, 0x30, 0x30, 0x31, 0x30, 0x30, 0x30] = some (.dechdr hdr1, []) := by decide

theorem decode_decrec : decode 0x52 .op [0x05, 0x3A, 0x30, 0x34, 0x30, 0x30, 0x31, 0x30, 0x30, 0x30, 0x00, 0x0A, 0x44, 0x45, 0x41, 0x44, 0x42, 0x45, 0x45, 0x46, 0x42, 0x34] = some (.decrec hdr1 body1, []) := by decide

theorem decode_stage : decode 0x52 .op [0x06, 0x12, 0x34, 0x02, 0xAA, 0xBB, 0xCC] = some (.stage 0x1234 [0xAA, 0xBB], [0xCC]) := by decide

theorem decode_flushPending : decode 0x52 .op [0x07] = some (.flushPending, []) := by decide

theorem decode_flush : decode 0x52 .op [0x08] = some (.flush, []) := by decide

theorem decode_csEnter : decode 0x52 .op [0x09] = some (.csEnter, []) := by decide

theorem decode_csLeave : decode 0x52 .op [0x0A] = some (.csLeave, []) := by decide

theorem decode_handoff : decode 0x52 .op [0x0B] = some (.handoff, []) := by decide

theorem decode_unusedC : decode 0x52 .op [0x0C] = none := by decide

theorem decode_unusedD : decode 0x52 .op [0x0D] = none := by decide

theorem decode_unusedE : decode 0x52 .op [0x0E] = none := by decide

theorem decode_unusedF : decode 0x52 .op [0x0F] = none := by decide

theorem decode_stage_short : decode 0x52 .op [0x06, 0x00, 0x00, 0x03, 0xAA] = none := by decide


/-! Command bytes of rules R92 and R93; `Q` is no command (vector C6). -/

theorem decode_cmdQuit : decode 0x52 .cmd [0x71] = some (.cmdQuit, []) := by decide

theorem decode_cmdFuses : decode 0x52 .cmd [0x66] = some (.cmdFuses, []) := by decide

theorem decode_cmdInfo : decode 0x52 .cmd [0x69] = some (.cmdInfo, []) := by decide

theorem decode_cmdUpload : decode 0x52 .cmd [0x75] = some (.cmdUpload, []) := by decide

theorem decode_cmdVerify : decode 0x52 .cmd [0x76] = some (.cmdVerify, []) := by decide

theorem decode_cmdUnknown : decode 0x52 .cmd [0x51] = some (.cmdUnknown 0x51, []) := by decide


/-! Record lines of rules R94 and R98; the first, second and sixth are those of 95_test_vectors.md section 0. -/

theorem decode_recData : decode 0x52 .record [0x3A, 0x30, 0x34, 0x30, 0x30, 0x31, 0x30, 0x30, 0x30, 0x44, 0x45, 0x41, 0x44, 0x42, 0x45, 0x45, 0x46, 0x42, 0x34] = some (.recData 0x0010 [0xDE, 0xAD, 0xBE, 0xEF], []) := by decide

theorem decode_recEof : decode 0x52 .record [0x3A, 0x30, 0x30, 0x30, 0x30, 0x30, 0x30, 0x30, 0x31, 0x46, 0x46] = some (.recEof 0 [], []) := by decide

theorem decode_recEof_payload : decode 0x52 .record [0x3A, 0x30, 0x32, 0x31, 0x32, 0x33, 0x34, 0x30, 0x31, 0x41, 0x41, 0x42, 0x42, 0x35, 0x32] = some (.recEof 0x1234 [0xAA, 0xBB], []) := by decide

theorem decode_recEsa : decode 0x52 .record [0x3A, 0x30, 0x32, 0x30, 0x30, 0x30, 0x30, 0x30, 0x32, 0x31, 0x30, 0x30, 0x30, 0x45, 0x43] = some (.recEsa 0x02 ⟨0x30, 0x30, 0x30, 0x30⟩, [0x31, 0x30, 0x30, 0x30, 0x45, 0x43]) := by decide

theorem decode_recSsa : decode 0x52 .record [0x3A, 0x30, 0x34, 0x30, 0x30, 0x30, 0x30, 0x30, 0x33] = some (.recSsa 0x04 ⟨0x30, 0x30, 0x30, 0x30⟩, []) := by decide

theorem decode_recEla : decode 0x52 .record [0x3A, 0x30, 0x32, 0x30, 0x30, 0x30, 0x30, 0x30, 0x34] = some (.recEla 0x02 ⟨0x30, 0x30, 0x30, 0x30⟩, []) := by decide

theorem decode_recSla : decode 0x52 .record [0x3A, 0x30, 0x34, 0x58, 0x30, 0x31, 0x30, 0x30, 0x35] = some (.recSla 0x04 ⟨0x58, 0x30, 0x31, 0x30⟩, []) := by decide

theorem decode_recOther_low : decode 0x52 .record [0x3A, 0x30, 0x30, 0x30, 0x30, 0x30, 0x30, 0x30, 0x36] = some (.recOther 0x06 0x00 ⟨0x30, 0x30, 0x30, 0x30⟩, []) := by decide

theorem decode_recOther_high : decode 0x52 .record [0x3A, 0x46, 0x46, 0x30, 0x30, 0x30, 0x30, 0x46, 0x46] = some (.recOther 0xFF 0xFF ⟨0x30, 0x30, 0x30, 0x30⟩, []) := by decide

theorem decode_record_checksum : decode 0x52 .record [0x3A, 0x30, 0x34, 0x30, 0x30, 0x31, 0x30, 0x30, 0x30, 0x44, 0x45, 0x41, 0x44, 0x42, 0x45, 0x45, 0x46, 0x42, 0x35] = none := by decide

theorem decode_record_short : decode 0x52 .record [0x3A, 0x30, 0x34, 0x30, 0x30, 0x31, 0x30, 0x30, 0x30, 0x44, 0x45, 0x41, 0x44, 0x42, 0x45, 0x45, 0x46, 0x42] = none := by decide


/-! Status bytes of rules R101 to R103: code in bits 7 to 5, detail in bits 4 to 0. -/

theorem decode_okPlain : decode 0x52 .sts [0x00] = some (.okPlain, []) := by decide

theorem decode_okHeaderAccepted : decode 0x52 .sts [0x01] = some (.okHeaderAccepted, []) := by decide

theorem decode_okPayloadAccepted : decode 0x52 .sts [0x02] = some (.okPayloadAccepted, []) := by decide

theorem decode_okLineCommitted : decode 0x52 .sts [0x03] = some (.okLineCommitted, []) := by decide

theorem decode_okFinished : decode 0x52 .sts [0x04] = some (.okFinished, []) := by decide

theorem decode_stsUnknownCommand : decode 0x52 .sts [0x20] = some (.stsUnknownCommand, []) := by decide

theorem decode_stsQuitting : decode 0x52 .sts [0x40] = some (.stsQuitting, []) := by decide

theorem decode_stsNotImplemented : decode 0x52 .sts [0x60] = some (.stsNotImplemented, []) := by decide

theorem decode_stsErrFraming : decode 0x52 .sts [0x80] = some (.stsErrFraming, []) := by decide

theorem decode_stsErrHexDigit : decode 0x52 .sts [0xA0] = some (.stsErrHexDigit, []) := by decide

theorem decode_stsErrDecode : decode 0x52 .sts [0xC0] = some (.stsErrDecode, []) := by decide

theorem decode_stsErrChecksum : decode 0x52 .sts [0xE0] = some (.stsErrChecksum, []) := by decide

theorem decode_stsOk_low : decode 0x52 .sts [0x05] = some (.stsOk 5, []) := by decide

theorem decode_stsOk_high : decode 0x52 .sts [0x1F] = some (.stsOk 31, []) := by decide

theorem decode_sts_detail : decode 0x52 .sts [0xE1] = none := by decide


/-! Control bytes of rule R104; 0x52 stands for READY_BYTE here. -/

theorem decode_ctlXon : decode 0x52 .ctl [0x11] = some (.ctlXon, []) := by decide

theorem decode_ctlXoff : decode 0x52 .ctl [0x13] = some (.ctlXoff, []) := by decide

theorem decode_ctlReady : decode 0x52 .ctl [0x52] = some (.ctlReady, []) := by decide

theorem decode_ctl_none : decode 0x52 .ctl [0x12] = none := by decide


/-! Decoder vectors D6 to D19 of 95_test_vectors.md. -/

theorem decoder_d1 : decRec hdr1 body1 = .ok rec1 := by rfl
theorem decoder_d4 : recordLine rec1 = headerChars hdr1 ++ body1 := by decide
theorem decoder_d6 : decRec hdr1 (body1.set 9 0x35) = .error .checksum := by rfl
theorem decoder_d7 : decRec { hdr1 with marker := 0x3B } body1 = .error .framing := by rfl
theorem decoder_d8 : decRec { hdr1 with a3 := 0x58 } body1 = .error (.hexDigit .address) := by rfl
theorem decoder_d9 : decRec hdr1 (body1.set 0 0x64) = .error (.hexDigit .payload) := by rfl
theorem decoder_d10 : decRec hdr1 (body1.set 9 0x5A) = .error (.hexDigit .checksum) := by rfl
theorem decoder_d11 : decRec { hdr1 with marker := 0x3B, n0 := 0x47 } (body1.set 2 0x5A) = .error .framing := by rfl
theorem decoder_d12 : decRec hdr1 ((body1.set 2 0x5A).set 9 0x35) = .error (.hexDigit .payload) := by rfl
theorem decoder_d14 : decHdr { hdr1 with a3 := 0x58 } = .ok (4, 0) := by rfl
theorem decoder_d15 : decHdr { hdr1 with n0 := 0x47, t0 := 0x67 } = .error (.hexDigit .byteCount) := by rfl
theorem decoder_d16 : decByte 0x42 0x34 = some 0xB4 ∧ decByte 0x39 0x41 = some 0x9A := by decide
theorem decoder_d17 : [decByte 0x62 0x34, decByte 0x47 0x30, decByte 0x30 0x3A, decByte 0x2F 0x30, decByte 0x40 0x30] =
    [none, none, none, none, none] := by decide
theorem decoder_d18 : [hexVal 0x2F, hexVal 0x30, hexVal 0x39, hexVal 0x3A, hexVal 0x40, hexVal 0x41, hexVal 0x46, hexVal 0x47] =
    [none, some 0, some 9, none, none, some 10, some 15, none] := by decide
theorem decoder_d19 : dec16 0x37 0x46 0x46 0x46 = some 0x7FFF := by decide

/-! ### One step of each instruction -/

/-- Vector A17. -/
theorem test_send : reading (fun t => (t.wireOut, t.txReady)) (exec (.send 0x40) idle) = some ([0x40], false) := by decide

/-- Vector A18. -/
theorem test_send_waits :
    reading (fun t => (t.wireOut, t.todo)) (exec (.send 0x40) { idle with txReady := false }) =
      some ([], [.run (.send 0x40)]) := by decide

/-- Vector A16, the second RECV: from two empty slots and paused, 0x13 is returned and XON goes out. -/
theorem test_recv_xon :
    reading (fun t => (t.got, t.tail, t.free, t.paused, t.wireOut, t.I))
      (exec .recv { idle with rxbuf := [0x14, 0x15, 0x12, 0x13], head := 2, tail := 3, free := 1, paused := true }) =
      some ([0x13], 0, 2, false, [0x11], true) := by decide

/-- Vector A19. -/
theorem test_recv_waits : reading (fun t => (t.todo, t.got)) (exec .recv idle) = some ([.run .recv], []) := by decide

/-- Vector A16, the third RXISR: one empty slot is left and XOFF goes out. -/
theorem test_rxisr_xoff :
    reading (fun t => (t.rxbuf, t.head, t.tail, t.free, t.paused, t.wireOut, t.rxHw))
      (exec .rxisr { idle with rxbuf := [0x10, 0x11, 0, 0], head := 2, free := 2, rxHw := [0x12] }) =
      some ([0x10, 0x11, 0x12, 0], 3, 0, 1, true, [0x13], []) := by rfl

/-- Vector A16, the fifth RXISR: the oldest unread byte is overwritten, both indices advance, no second XOFF. -/
theorem test_rxisr_overrun :
    reading (fun t => (t.rxbuf, t.head, t.tail, t.free, t.wireOut)) (exec .rxisr full) =
      some ([0x14, 0x11, 0x12, 0x13], 1, 1, 0, []) := by decide

/-- Vector D16. -/
theorem test_decbyte : reading State.res (exec (.decbyte 0x41 0x39) idle) = some (.byte 0xA9) := by decide

/-- Vector D17: `b4`. -/
theorem test_decbyte_error : reading State.res (exec (.decbyte 0x62 0x34) idle) = some (.error (.hexDigit .pair)) := by decide

/-- Vector D13. -/
theorem test_dechdr : reading State.res (exec (.dechdr hdr1) idle) = some (.header 4 0) := by decide

/-- Vector D1. -/
theorem test_decrec : reading State.res (exec (.decrec hdr1 body1) idle) = some (.record rec1) := by decide

/-- Vector D6. -/
theorem test_decrec_checksum :
    reading State.res (exec (.decrec hdr1 (body1.set 9 0x35)) idle) = some (.error .checksum) := by decide

/-- Vector B1 on a page of four: the bytes before and after the payload come from flash. -/
theorem test_stage_shadows :
    reading (fun t => (t.pageStart, t.dirty, t.pagebuf, t.flash, t.I))
      (exec (.stage 0x0005 [0xDE, 0xAD]) { idle with flash := [(4, 0xA5), (7, 0x5A)] }) =
      some (4, true, [0xA5, 0xDE, 0xAD, 0x5A], [(4, 0xA5), (7, 0x5A)], true) := by rfl

/-- Vector B3 on pages of four, up to the flush of the first page: the erase is issued in a section inside STAGE's own, and the
bytes for the next page are left. -/
theorem test_stage_crosses :
    reading (fun t => (t.pageStart, t.pagebuf, t.spmBusy, t.rwwEnabled, t.isave, t.todo))
      (exec (.stage 0x0003 [0x11, 0x22, 0x33]) idle) =
      some (0, [0xFF, 0xFF, 0xFF, 0x11], true, false, [false, true],
        [.flushProgram, .stageRest 0x0004 [0x22, 0x33]]) := by rfl

/-- Vector B10. -/
theorem test_flushPending_clean : exec .flushPending idle = .next idle := by rfl

/-- Vector B11, up to the erase. -/
theorem test_flushPending_dirty :
    reading (fun t => (t.dirty, t.spmBusy, t.todo)) (exec .flushPending staged) =
      some (true, true, [.flushProgram, .retire]) := by decide

/-- Vector B14, up to the erase. -/
theorem test_flush_erases :
    reading (fun t => (t.I, t.isave, t.spmBusy, t.rwwEnabled, t.flash))
      (exec .flush { staged with flash := [(3, 7), (4, 8), (7, 9), (8, 6)] }) =
      some (false, [true], true, false, [(3, 7), (8, 6)]) := by rfl

/-- Vector B12: no flush at or above the boundary. -/
theorem test_flush_boot : exec .flush { staged with pageStart := 8 } = .fault .flashWriteToBootSection := by rfl

/-- The second part of FLUSH: fill word 0 is {pagebuf[1], pagebuf[0]} (20_memory.md rule R69), programming ANDs. -/
theorem test_flush_programs :
    reading (fun t => (t.fill, t.flash, t.spmBusy, t.rwwEnabled)) (flushProgram { staged with rwwEnabled := false }) =
      some ([0x0201, 0x0403], [(4, 1), (5, 2), (6, 3), (7, 4)], true, false) := by decide

/-- Vector B17, the second CSENTER. -/
theorem test_csEnter :
    reading (fun t => (t.I, t.isave)) (exec .csEnter { idle with I := false, isave := [true] }) =
      some (false, [false, true]) := by decide

/-- Vector B17, the second CSLEAVE. -/
theorem test_csLeave :
    reading (fun t => (t.I, t.isave)) (exec .csLeave { idle with I := false, isave := [true] }) = some (true, []) := by decide

/-- Rule R207: a leave with nothing saved. -/
theorem test_csLeave_unopened : exec .csLeave idle = .refused .csLeaveUnopened := by rfl

/-- Vector C5. -/
theorem test_handoff :
    reading (fun t => (t.I, t.ivsel, t.seq, t.todo)) (exec .handoff (doing .retire idle)) =
      some (false, false, .handedOff, []) := by decide

/-- Vector C5, the acknowledgement. -/
theorem test_cmdQuit :
    reading (fun t => (t.wireOut, t.seq, t.active)) (exec .cmdQuit idle) = some ([0x40], .quit, true) := by decide

/-- Vector C2, the first byte. -/
theorem test_cmdFuses :
    reading (fun t => (t.wireOut, t.todo)) (exec .cmdFuses idle) =
      some ([0xF0], [.run (.send 0xF1), .run (.send 0xF2), .run (.send 0xF3)]) := by decide

/-- Vector C1 with the boundary 0x0008, low byte first. -/
theorem test_cmdInfo :
    reading (fun t => (t.wireOut, t.todo)) (exec .cmdInfo idle) =
      some ([0x02], [.run (.send 0x76), .run (.send 0x31), .run (.send 0x02), .run (.send 0x08), .run (.send 0x00)]) := by
  decide

/-- Vector C12: no reply of its own. -/
theorem test_cmdUpload : reading (fun t => (t.seq, t.wireOut)) (exec .cmdUpload idle) = some (.uploadHdr, []) := by decide

/-- Rule R230: the request bytes are read next. -/
theorem test_cmdVerify : reading (fun t => (t.seq, t.wireOut)) (exec .cmdVerify idle) = some (.verify, []) := by decide

/-- Vector C3, a request for two bytes at 0x0004. -/
theorem test_verify_reply :
    reading (fun t => (t.vaddr, t.vcount, t.wireOut, t.todo))
      (sequencerStep { idle with seq := .verify, got := [0x00, 0x04, 0x02], flash := [(4, 1), (5, 2)] }) =
      some (4, 2, [1], [.run (.send 2), .goto .awaitCmd]) := by decide

/-- Vector C4: the third address is out of range, and no reply byte goes out. -/
theorem test_verify_fault :
    sequencerStep { idle with seq := .verify, got := [0x00, 0x0E, 0x03] } = .fault .flashAddressOutOfRange := by rfl

/-- Vector C6. -/
theorem test_cmdUnknown :
    reading (fun t => (t.wireOut, t.seq, t.todo)) (exec (.cmdUnknown 0x51) idle) =
      some ([0x20], .unknown, [.run (.send 0x51)]) := by decide

/-- Vector C9, the record action. -/
theorem test_recData :
    reading (fun t => (t.pagebuf, t.dirty, t.todo)) (exec (.recData 0x0001 [0xDE, 0xAD]) idle) =
      some ([0xFF, 0xDE, 0xAD, 0xFF], true, [.run .okLineCommitted, .goto .uploadHdr]) := by decide

/-- Vector C11: an END_OF_FILE record with an address and a payload. -/
theorem test_recEof :
    reading (fun t => (t.dirty, t.flash, t.todo)) (exec (.recEof 0x1234 [0xAA, 0xBB]) idle) =
      some (false, [], [.run .okFinished, .goto .awaitCmd]) := by decide

/-- Vector E8. -/
theorem test_recEsa :
    reading (fun t => (t.wireOut, t.todo)) (exec (.recEsa 2 ⟨0x30, 0x30, 0x30, 0x30⟩) idle) =
      some ([0x60], [.goto .awaitCmd]) := by decide

/-- Rule R228. -/
theorem test_recSsa : reading State.wireOut (exec (.recSsa 4 ⟨0x30, 0x30, 0x30, 0x30⟩) idle) = some [0x60] := by decide

/-- Vector E9. -/
theorem test_recEla : reading State.wireOut (exec (.recEla 2 ⟨0x30, 0x30, 0x30, 0x30⟩) idle) = some [0x60] := by decide

/-- Rule R228. -/
theorem test_recSla : reading State.wireOut (exec (.recSla 4 ⟨0x30, 0x30, 0x30, 0x30⟩) idle) = some [0x60] := by decide

/-- Rule R228. -/
theorem test_recOther : reading State.wireOut (exec (.recOther 6 0 ⟨0x58, 0x30, 0x30, 0x30⟩) idle) = some [0x60] := by decide

/-- Rules R102, R103: the bytes of the status codes, sent and left in `reply`. -/
theorem test_status_bytes :
    [.stsOk 5, .stsUnknownCommand, .stsQuitting, .stsNotImplemented, .stsErrFraming, .stsErrHexDigit, .stsErrDecode,
      .stsErrChecksum, .okPlain, .okHeaderAccepted, .okPayloadAccepted, .okLineCommitted, .okFinished].map
      (fun i => reading (fun t => (t.wireOut, t.reply)) (exec i idle)) =
    [0x05, 0x20, 0x40, 0x60, 0x80, 0xA0, 0xC0, 0xE0, 0x00, 0x01, 0x02, 0x03, 0x04].map
      (fun b : Byte => some ([b], b)) := by decide

/-- Rule R104. -/
theorem test_ctlXon :
    reading (fun t => (t.wireOut, t.paused)) (exec .ctlXon { idle with paused := true }) = some ([0x11], false) := by decide

/-- Rule R104. -/
theorem test_ctlXoff : reading (fun t => (t.wireOut, t.paused)) (exec .ctlXoff idle) = some ([0x13], true) := by decide

/-- Rule R303. -/
theorem test_ctlReady : reading State.wireOut (exec .ctlReady idle) = some [0x52] := by decide

/-! ### Steps -/

/-- Vector C14: the entry. -/
theorem test_entry :
    reading (fun t => (t.wireOut, t.active, t.I, t.ivsel, t.todo)) (step (chosen .sequencer fresh)) =
      some ([0x52], true, true, true, [.goto .awaitCmd]) := by decide

/-- Vector C13: ENABLE false. -/
theorem test_entry_disabled :
    reading (fun t => (t.wireOut, t.seq, t.I, t.ivsel))
      (step (chosen .sequencer { fresh with cfg := { cfg with enable := false } })) =
      some ([], .handedOff, false, false) := by decide

/-- Vector E10: the header phase reports the start marker before the type digit. -/
theorem test_header_phase :
    reading (fun t => (t.wireOut, t.todo, t.got))
      (step (chosen .sequencer { idle with
        seq := .uploadHdr, got := [0x3B, 0x30, 0x34, 0x30, 0x30, 0x31, 0x30, 0x30, 0x67, 0x44] })) =
      some ([0x80], [.goto .awaitCmd], [0x44]) := by decide

/-- Vector E12: the body phase reports the address before the payload. -/
theorem test_body_phase :
    reading (fun t => (t.wireOut, t.todo))
      (step (chosen .sequencer { idle with
        seq := .uploadBody, hdr := { hdr1 with a3 := 0x58 }, got := body1.set 2 0x5A })) =
      some ([0xC0], [.goto .awaitCmd]) := by decide

/-- Vector A21: a byte that finds the receiver full is lost. -/
theorem test_peer_loses :
    reading (fun t => (t.rxHw, t.wireIn)) (step (chosen (.peer 0x55) { idle with rxHw := [0x01] })) =
      some ([0x01], [0x55]) := by decide

/-- Rule R270: masked, the pending byte stays. -/
theorem test_receive_masked :
    reading (fun t => (t.rxHw, t.free)) (step (chosen .receive { idle with I := false, rxHw := [0x01] })) =
      some ([0x01], 4) := by decide

/-- Rule R324: an RXISR that finds the transmit register busy is held after the byte is stored, and the sequencer with it. -/
theorem test_receive_held :
    reading (fun t => (t.held, t.free, t.paused, t.wireOut))
      (step (chosen .receive { idle with free := 1, head := 3, rxHw := [0x01], txReady := false })) =
      some (true, 0, false, []) ∧
    reading State.wireOut (step (chosen .sequencer (doing (.run (.send 1)) { idle with held := true }))) = some [] := by
  decide

/-- A table word in the place the next step fetches from: SEND of 0x40, its operand in the second byte. -/
theorem test_withFetchWord :
    reading State.wireOut (step (idle.withFetchWord 16 0x4000)) = some [0x40] ∧
    reading State.seq (step (fresh.withFetchWord 8 0x75)) = some .uploadHdr := by decide

theorem test_tableWord :
    [decodeTableWord 8 0x0B, decodeTableWord 8 0x71, decodeTableWord 8 0x13, decodeTableWord 8 0xC0] =
      [some .handoff, some .cmdQuit, some .ctlXoff, some .stsErrDecode] := by decide

/-! ### What the statements assume is met: one theorem for each statement with hypotheses, a boundary case for each clause -/

theorem admissible_cfg : cfg.Admissible := by decide

theorem inv_idle : idle.Inv := by constructor <;> decide

theorem inv_full : full.Inv := by constructor <;> decide

theorem inv_queued : queued.Inv := by constructor <;> decide

theorem inv_staged : staged.Inv := by constructor <;> decide

theorem witness_DecodeEncodeAgree :
    WellFormed (.stage 0xFFFF (List.replicate 255 0xFF)) = true ∧ WellFormed (.recData 0 []) = true ∧
    (Instr.ctlReady = .ctlReady → (0x52 : Byte) ≠ xonByte ∧ (0x52 : Byte) ≠ xoffByte) :=
  ⟨by simp only [WellFormed, List.length_replicate, -List.reduceReplicate]; decide, rfl, by decide⟩

theorem witness_EncodeDecodeAgree : decode 0x52 .sts [0x1F, 0x55] = some (.stsOk 31, [0x55]) := by decide

theorem witness_CommandMap :
    (0x51 : Byte) ≠ 0x71 ∧ (0x51 : Byte) ≠ 0x66 ∧ (0x51 : Byte) ≠ 0x69 ∧ (0x51 : Byte) ≠ 0x75 ∧ (0x51 : Byte) ≠ 0x76 := by decide

theorem witness_FieldAssembly :
    hexVal 0x46 = some 15 ∧ hexVal 0x30 = some 0 ∧
    decPairs 2 [0x46, 0x46, 0x30, 0x30, 0x31] = some ([0xFF, 0x00], [0x31]) := by decide

theorem witness_ChecksumRule :
    rec1.payload.length = rec1.byteCount.toNat ∧ headerOf (recordLine rec1) = some (hdr1, body1) ∧ recordTotal rec1 % 256 = 0 ∧
    headerOf (recordLine { rec1 with checksum := 0xB5 }) = some (hdr1, body1.set 9 0x35) ∧
    recordTotal { rec1 with checksum := 0xB5 } % 256 ≠ 0 ∧ (List.replicate 255 (0xFF : Byte)).length ≤ 255 :=
  ⟨by decide, by decide, by decide, by decide, by decide, by rw [List.length_replicate]⟩

theorem witness_RecordRoundTrip : body1.length = bodyLength hdr1 ∧ decRec hdr1 body1 = .ok rec1 := ⟨by decide, rfl⟩

theorem witness_PerturbedChecksum :
    body1.length = bodyLength hdr1 ∧ decRec hdr1 body1 = .ok rec1 ∧ (0xB5 : Byte) ≠ rec1.checksum ∧ decByte 0x42 0x5A = none :=
  ⟨by decide, rfl, by decide, by decide⟩

theorem witness_DecoderErrorPrecedence :
    (0x3B : Byte) ≠ 0x3A ∧ hdr1.marker = 0x3A ∧ decByte 0x30 0x47 = none ∧ decByte hdr1.n1 hdr1.n0 = some 4 ∧
    decByte hdr1.t1 hdr1.t0 = some 0 ∧ body1.length = 2 * (4 : Byte).toNat + 2 ∧ dec16 0x58 0x30 0x31 0x30 = none ∧
    dec16 hdr1.a3 hdr1.a2 hdr1.a1 hdr1.a0 = some 0x0010 ∧
    (∃ k < (4 : Byte).toNat, decByte ((body1.set 7 0x5A).getD (2 * k) 0) ((body1.set 7 0x5A).getD (2 * k + 1) 0) = none) ∧
    (∀ k < (4 : Byte).toNat,
      decByte (body1.getD (2 * k) 0) (body1.getD (2 * k + 1) 0) = some (rec1.payload.getD k 0)) ∧
    decByte (body1.getD (2 * (4 : Byte).toNat) 0) (body1.getD (2 * (4 : Byte).toNat + 1) 0) = some 0xB4 ∧
    recordTotal rec1 % 256 = 0 ∧ recordTotal { rec1 with checksum := 0xB5 } % 256 ≠ 0 := by decide

theorem turn_of {s : State} (h : s.cfg.Admissible ∧ nextEvent s = .sequencer ∧ s.held = false) : s.SequencerTurn :=
  ⟨h.1, h.2.1, h.2.2⟩

theorem witness_StepRunsDecodedInstruction :
    (chosen .sequencer (doing (.fetch .op [0x0B]) idle)).SequencerTurn ∧
    decode idle.cfg.readyByte .op [0x0B] = some (.handoff, []) ∧ WellFormed .handoff = true ∧
    (chosen .sequencer (doing (.run .recv) idle)).SequencerTurn ∧
    (chosen .sequencer { idle with got := [0x75] }).SequencerTurn ∧ idle.todo = [] ∧ idle.seq = .awaitCmd ∧ idle.active = true ∧
    decode idle.cfg.readyByte .cmd [0x75] = some (.cmdUpload, []) ∧ WellFormed .cmdUpload = true :=
  ⟨turn_of (by decide), by decide, by decide, turn_of (by decide), turn_of (by decide), by decide⟩

theorem witness_TableWordRuns : idle.cfg.Admissible ∧ decodeTableWord 8 0x0B = some .handoff := by decide

theorem witness_WaitsNeverPass :
    ((∃ b, Instr.send 0x40 = .send b) ∧ spaceOf .okFinished = .sts ∧ spaceOf .ctlXon = .ctl ∧
      ∀ i ∈ [Instr.send 0x40, .okFinished, .ctlXon],
        ∃ t, (doing (.run i) { idle with txReady := false }).plays [.sequencer, .receive, .flashEngine] = .next t) ∧
    (1 ≤ cfg.xoffFree ∧
      ∃ t, ({ idle with held := true, free := 1, txReady := false } : State).plays [.sequencer, .receive, .peer 1] = .next t) ∧
    ((doing (.run .recv) idle).free = idle.cfg.rxCap ∧
      ∃ t, (doing (.run .recv) idle).plays [.sequencer, .peer 0x01, .transmitter] = .next t) ∧
    (∀ k : Task, k = .flushErase ∨ k = .flushProgram ∨ k = .flushEnable →
      ∃ t, (doing k { staged with spmBusy := true }).plays [.sequencer, .receive, .sequencer] = .next t) := by
  refine ⟨⟨⟨0x40, rfl⟩, rfl, rfl, ?_⟩, ⟨by decide, exists_next (by decide)⟩,
    ⟨by decide, exists_next (by decide)⟩, ?_⟩
  · intro i hi
    simp only [List.mem_cons, List.not_mem_nil, or_false] at hi
    rcases hi with rfl | rfl | rfl <;> exact exists_next (by decide)
  · rintro k (rfl | rfl | rfl) <;> exact exists_next (by decide)

theorem witness_SendCompletes : idle.txReady = true ∧ ({ idle with txReady := false } : State).txReady = false := by decide

/-- RECV: one byte queued; paused and just below the high watermark; paused and just at it, with the register free and busy. -/
theorem witness_RecvCompletes :
    (queued.free < queued.cfg.rxCap ∧ ¬(queued.paused = true ∧ queued.cfg.xonFree ≤ queued.free + 1)) ∧
    (full.free < full.cfg.rxCap ∧ ¬(full.paused = true ∧ full.cfg.xonFree ≤ full.free + 1)) ∧
    (1 < cfg.rxCap ∧ ({ full with free := 1, tail := 1 } : State).paused = true ∧ cfg.xonFree ≤ 1 + 1 ∧ full.txReady = true) ∧
    ({ full with free := 1, tail := 1, txReady := false } : State).txReady = false ∧ idle.cfg.rxCap ≤ idle.free := by decide

/-- RXISR: a full queue, paused; room, with the low watermark not reached; reached with the register free and busy; and not
enabled. -/
theorem witness_RxisrCompletes :
    (full.I = true ∧ full.rxHw = [0x14] ∧ full.free = 0 ∧ ¬(full.free ≤ full.cfg.xoffFree ∧ full.paused = false)) ∧
    (idle.I = true ∧ idle.free ≠ 0 ∧ ¬(idle.free - 1 ≤ idle.cfg.xoffFree ∧ idle.paused = false)) ∧
    (queued.free - 1 ≤ queued.cfg.xoffFree ∧ queued.paused = false ∧ queued.txReady = true) ∧
    ({ queued with txReady := false } : State).txReady = false ∧ ({ idle with I := false } : State).I = false ∧ idle.rxHw = [] := by
  decide

theorem witness_OverrunOverwritesOldest :
    full.Inv ∧ full.I = true ∧ full.rxHw = [0x14] ∧ full.free = 0 ∧ ∃ t, exec .rxisr full = .next t :=
  ⟨inv_full, rfl, rfl, rfl, _, rfl⟩

theorem witness_QueueIsFirstInFirstOut :
    ({ queued with rxHw := [0x05] } : State).Inv ∧ queued.I = true ∧ queued.free ≠ 0 ∧ queued.free < queued.cfg.rxCap :=
  ⟨by constructor <;> decide, by decide⟩

theorem witness_ReceiveAgentMasking :
    idle.cfg.Admissible ∧ nextEvent (chosen .receive idle) = .receive ∧ idle.held = false ∧ idle.rxHw = [] ∧
    (full.I = true ∧ full.rxHw ≠ [] ∧ full.ivsel = true) ∧
    (({ idle with held := true, free := 1 } : State).free ≤ cfg.xoffFree ∧ idle.paused = false ∧ idle.txReady = true) ∧
    ({ idle with held := true, free := 1, txReady := false } : State).txReady = false ∧
    nextEvent (chosen .sequencer { idle with held := true }) = .sequencer := by decide

theorem witness_HardwareAgentSteps :
    nextEvent (chosen .transmitter idle) = .transmitter ∧ nextEvent (chosen .flashEngine idle) = .flashEngine ∧
    nextEvent (chosen (.peer 1) idle) = .peer 1 ∧ idle.rxHw.length < idle.cfg.rxHwDepth ∧
    full.cfg.rxHwDepth ≤ full.rxHw.length ∧ nextEvent (chosen .peerTakes idle) = .peerTakes ∧ idle.cfg.Admissible := by
  decide

theorem witness_ControlBytesComplete :
    idle.txReady = true ∧ ({ idle with txReady := false } : State).txReady = false := by decide

theorem witness_DecoderOperationsComplete :
    decByte 0x41 0x39 = some 0xA9 ∧ decByte 0x62 0x34 = none ∧ decHdr hdr1 = .ok (4, 0) ∧
    decHdr { hdr1 with marker := 0x3B } = .error .framing ∧ decRec hdr1 body1 = .ok rec1 ∧
    decRec hdr1 (body1.set 9 0x35) = .error .checksum := ⟨by decide, by decide, rfl, rfl, rfl, rfl⟩

/-- A whole page on a clean buffer at the last page of program memory; the last byte of the staged page; the first address
outside program memory; and the section disabled. -/
theorem witness_StageWithinOnePage :
    (idle.Inv ∧ (12 : Word16).toNat < idle.cfg.flashSize ∧ (12 : Word16).toNat % idle.cfg.pageSize + 4 ≤ idle.cfg.pageSize ∧
      (12 : Word16).toNat = (12 : Word16).toNat - (12 : Word16).toNat % idle.cfg.pageSize ∧ idle.dirty = false ∧
      idle.rwwEnabled = true) ∧
    (staged.Inv ∧ (7 : Word16).toNat < staged.cfg.flashSize ∧ (7 : Word16).toNat % staged.cfg.pageSize + 1 ≤ staged.cfg.pageSize ∧
      (4 : Word16).toNat = (7 : Word16).toNat - (7 : Word16).toNat % staged.cfg.pageSize ∧ staged.dirty = true ∧
      staged.pageStart = 4) ∧
    (idle.cfg.Admissible ∧ idle.dirty = false ∧ idle.rwwEnabled = true ∧ idle.cfg.flashSize ≤ (16 : Word16).toNat) ∧
    ({ idle with rwwEnabled := false } : State).rwwEnabled = false :=
  ⟨⟨inv_idle, by decide⟩, ⟨inv_staged, by decide⟩, by decide, rfl⟩

/-- The byte just below the staged page and the byte just after it. -/
theorem witness_StageEmptyAndFlushTrigger :
    staged.dirty = true ∧ (3 : Word16).toNat < staged.pageStart.toNat ∧
    staged.pageStart.toNat + staged.cfg.pageSize ≤ (8 : Word16).toNat := by decide

/-- A payload from the first address to the last below the boundary, over a staged page. -/
theorem witness_StageOverlaysTheImage :
    (doing (.run (.stage 0 (List.replicate 8 7))) staged).Inv ∧ staged.held = false ∧ staged.rwwEnabled = true ∧
    (∀ k < (List.replicate 8 (7 : Byte)).length, ((0 : Word16).toNat + k) % 65536 < staged.cfg.bootStart.toNat) ∧
    staged.dirty = true ∧ staged.pageStart.toNat < staged.cfg.bootStart.toNat :=
  ⟨by constructor <;> decide, by decide⟩

theorem witness_StagesThenFlushPending :
    ({ staged with todo := [.run (.stage 0 [1]), .run (.stage 7 [2]), .run .flushPending] } : State).Inv ∧ staged.held = false ∧
    staged.rwwEnabled = true ∧
    (∀ c ∈ [((0 : Word16), ([1] : List Byte)), (7, [2])], ∀ k < c.2.length, (c.1.toNat + k) % 65536 < staged.cfg.bootStart.toNat) ∧
    staged.pageStart.toNat < staged.cfg.bootStart.toNat :=
  ⟨by constructor <;> decide, by decide⟩

theorem witness_FlushPendingWritesThePage :
    idle.dirty = false ∧ (doing (.run .flushPending) staged).Inv ∧ staged.held = false ∧ staged.spmBusy = false ∧
    staged.dirty = true ∧ staged.pageStart.toNat < staged.cfg.bootStart.toNat :=
  ⟨rfl, by constructor <;> decide, by decide⟩

/-- The last page below the boundary, the first at it, and the first outside program memory. -/
theorem witness_FlushStarts :
    ({ staged with spmBusy := true } : State).spmBusy = true ∧
    (staged.spmBusy = false ∧ staged.pageStart.toNat < staged.cfg.flashSize ∧ staged.pageStart.toNat < staged.cfg.bootStart.toNat) ∧
    cfg.flashSize ≤ ({ staged with pageStart := 16 } : State).pageStart.toNat ∧
    (({ staged with pageStart := 8 } : State).pageStart.toNat < cfg.flashSize ∧
      cfg.bootStart.toNat ≤ ({ staged with pageStart := 8 } : State).pageStart.toNat) ∧
    staged.dirty = true := by decide

/-- A run of FLUSH in which the peer and the receive agent step too ends when the FLUSH completes. -/
theorem flush_ends :
    ∃ t, (doing (.run .flush) staged).FlushEnds []
      [.peer 1, .receive, .sequencer, .flashEngine, .sequencer, .peer 2, .sequencer, .flashEngine, .receive, .sequencer] t := by
  obtain ⟨t, ht⟩ := exists_next (o := (doing (.run .flush) staged).plays
    [.peer 1, .receive, .sequencer, .flashEngine, .sequencer, .peer 2, .sequencer, .flashEngine, .receive, .sequencer]) (by decide)
  refine ⟨t, ht, ?_, ?_⟩
  · have h : reading State.todo ((doing (.run .flush) staged).plays
        [.peer 1, .receive, .sequencer, .flashEngine, .sequencer, .peer 2, .sequencer, .flashEngine, .receive, .sequencer]) =
        some [] := by decide
    rw [ht] at h
    simpa [reading] using h
  · intro n hn u hu hnil
    have h : ∀ n < 10, reading State.todo ((doing (.run .flush) staged).plays
        (List.take n [.peer 1, .receive, .sequencer, .flashEngine, .sequencer, .peer 2, .sequencer, .flashEngine, .receive,
          .sequencer])) ≠ some [] := by decide
    exact h n hn (by rw [hu]; simp [reading, hnil])

theorem witness_FlushContract :
    (doing (.run .flush) staged).Inv ∧ (doing (.run .flush) { staged with spmBusy := true }).Inv ∧ staged.held = false ∧
    staged.spmBusy = false ∧ staged.pageStart.toNat < staged.cfg.bootStart.toNat ∧
    ∃ es t, (doing (.run .flush) staged).FlushEnds [] es t :=
  ⟨by constructor <;> decide, by constructor <;> decide, rfl, rfl, by decide, _, flush_ends⟩

/-- Two FLUSHes to be done. -/
def twice : State := { staged with todo := [.run .flush, .run .flush] }

/-- Two runs, one after the other, in which one FLUSH each completes. -/
theorem witness_FlushTwice :
    twice.Inv ∧ twice.held = false ∧ twice.pageStart.toNat < twice.cfg.bootStart.toNat ∧
    ∃ t u, twice.FlushEnds [.run .flush] flushEvents t ∧ t.FlushEnds [] flushEvents u := by
  refine ⟨by constructor <;> decide, rfl, by decide, ?_⟩
  have h1 : ∀ n < 5, reading State.todo (twice.plays (List.take n flushEvents)) ≠ some [.run .flush] := by decide
  refine ⟨{ twice with
    script := [], todo := [.run .flush], flash := [(4, 1), (5, 2), (6, 3), (7, 4)], fill := [0x0201, 0x0403] }, ?_⟩
  refine ⟨{ twice with
    script := [], todo := [], flash := [(4, 1), (5, 2), (6, 3), (7, 4)], fill := [0x0201, 0x0403] }, ⟨rfl, rfl, ?_⟩, ⟨rfl, rfl, ?_⟩⟩
  · intro n hn u hu he
    exact h1 n hn (by rw [hu]; simp [reading, he])
  · intro n hn u hu he
    have h2 : ∀ n < 5, reading State.todo (State.plays { twice with
        script := [], todo := [.run .flush], flash := [(4, 1), (5, 2), (6, 3), (7, 4)], fill := [0x0201, 0x0403] }
        (List.take n flushEvents)) ≠ some [] := by decide
    exact h2 n hn (by rw [hu]; simp [reading, he])

theorem witness_EraseAndProgram :
    staged.cfg.Admissible ∧ Memory.wf staged.flash ∧ (4 : Word16).toNat % staged.cfg.pageSize = 0 ∧
    (4 : Word16).toNat < staged.cfg.flashSize ∧ (4 : Word16).toNat < staged.cfg.bootStart.toNat ∧ staged.spmBusy = false ∧
    ({ staged with spmBusy := true } : State).spmBusy = true := by decide

theorem witness_CriticalSections :
    ({ idle with isave := [true] } : State).isave = true :: [] ∧ idle.isave = [] ∧ ∃ t, exec .csEnter idle = .next t :=
  ⟨rfl, rfl, _, rfl⟩

theorem witness_CommandsComplete :
    idle.txReady = true ∧ ({ idle with txReady := false } : State).txReady = false := by decide

/-- The command byte `c` queued before `rest`, in a queue of eight. -/
def commanded (c : Byte) (rest : List Byte) : State :=
  { idle with
    cfg := { cfg with rxCap := 8 }
    rxbuf := (c :: rest) ++ List.replicate (7 - rest.length) 0
    head := (rest.length + 1) % 8
    free := 7 - rest.length }

theorem commandReady_of {s : State} {c : Byte} {rest : List Byte} (hi : s.Inv)
    (h : s.held = false ∧ s.todo = [] ∧ s.seq = .awaitCmd ∧ s.active = true ∧ s.got = [] ∧ s.unread = c :: rest ∧
      s.paused = false ∧ s.txReady = true) : s.CommandReady c rest :=
  ⟨hi, h.1, h.2.1, h.2.2.1, h.2.2.2.1, h.2.2.2.2.1, h.2.2.2.2.2.1, h.2.2.2.2.2.2.1, h.2.2.2.2.2.2.2⟩

/-- The last two bytes of program memory; a count of zero; one byte more than program memory has; the section disabled. -/
theorem witness_VerifyReply :
    (commanded 0x76 [0x00, 0x0E, 0x02]).CommandReady 0x76 [0x00, 0x0E, 0x02] ∧ idle.rwwEnabled = true ∧
    (∀ k < (2 : Byte).toNat, (256 * (0 : Byte).toNat + (0x0E : Byte).toNat + k) % 65536 < cfg.flashSize) ∧
    (commanded 0x76 [0xFF, 0xFF, 0x00]).CommandReady 0x76 [0xFF, 0xFF, 0x00] ∧
    (commanded 0x76 [0x00, 0x0E, 0x03]).CommandReady 0x76 [0x00, 0x0E, 0x03] ∧
    (∃ k < (3 : Byte).toNat, cfg.flashSize ≤ (256 * (0 : Byte).toNat + (0x0E : Byte).toNat + k) % 65536) ∧
    ({ commanded 0x76 [0x00, 0x0E, 0x02] with rwwEnabled := false } : State).CommandReady 0x76 [0x00, 0x0E, 0x02] :=
  ⟨commandReady_of (by constructor <;> decide) (by decide), by decide, by decide,
    commandReady_of (by constructor <;> decide) (by decide), commandReady_of (by constructor <;> decide) (by decide), by decide,
    commandReady_of (by constructor <;> decide) (by decide)⟩

/-- Two request bytes and three: the last two bytes of program memory, a count of zero, one byte too many. -/
theorem witness_VerifyPhase :
    (chosen .sequencer { idle with seq := .verify, got := [0x00, 0x0E] }).SequencerTurn ∧ ([0x00, 0x0E] : List Byte).length < 3 ∧
    (chosen .sequencer { idle with seq := .verify, got := [0x00, 0x0E, 0x02] }).SequencerTurn ∧ idle.todo = [] ∧
    (∀ k < (2 : Byte).toNat, (256 * (0 : Byte).toNat + (0x0E : Byte).toNat + k) % 65536 < cfg.flashSize) ∧
    (List.range (2 : Byte).toNat).map
      (fun k => Memory.read idle.flash ((256 * (0 : Byte).toNat + (0x0E : Byte).toNat + k) % 65536)) = 0xFF :: [0xFF] ∧
    (∃ k < (3 : Byte).toNat, cfg.flashSize ≤ (256 * (0 : Byte).toNat + (0x0E : Byte).toNat + k) % 65536) ∧
    idle.txReady = true ∧ ({ idle with txReady := false } : State).txReady = false ∧
    ({ idle with rwwEnabled := false } : State).rwwEnabled = false :=
  ⟨turn_of (by decide), by decide, turn_of (by decide), by decide⟩

theorem witness_CommandReplies :
    (commanded 0x69 []).CommandReady 0x69 [] ∧ (commanded 0x66 [0x71]).CommandReady 0x66 [0x71] ∧
    (commanded 0x51 []).CommandReady 0x51 [] :=
  ⟨commandReady_of (by constructor <;> decide) (by decide),
    commandReady_of (by constructor <;> decide) (by decide),
    commandReady_of (by constructor <;> decide) (by decide)⟩

theorem witness_QuitEndsTheRun : (commanded 0x71 []).CommandReady 0x71 [] :=
  commandReady_of (by constructor <;> decide) (by decide)

theorem witness_UnimplementedRecords :
    idle.txReady = true ∧ ({ idle with txReady := false } : State).txReady = false := by decide

theorem witness_DataRecordCommits :
    (doing (.run (.recData 0 (List.replicate 8 7))) staged).Inv ∧ staged.held = false ∧ staged.rwwEnabled = true ∧
    (∀ k < (List.replicate 8 (7 : Byte)).length, ((0 : Word16).toNat + k) % 65536 < staged.cfg.bootStart.toNat) ∧
    staged.dirty = true ∧ staged.pageStart.toNat < staged.cfg.bootStart.toNat :=
  ⟨by constructor <;> decide, by decide⟩

theorem witness_EndOfFileRecord :
    (doing (.run (.recEof 0 [])) idle).Inv ∧ idle.held = false ∧ idle.txReady = true ∧ idle.dirty = false ∧
    (doing (.run (.recEof 0 [])) staged).Inv ∧ staged.dirty = true ∧ staged.spmBusy = false ∧
    staged.pageStart.toNat < staged.cfg.bootStart.toNat :=
  ⟨by constructor <;> decide, rfl, rfl, rfl, by constructor <;> decide, by decide⟩

theorem witness_StatusBytesComplete :
    spaceOf (.stsOk 31) = .sts ∧ spaceOf .okPlain = .sts ∧ idle.txReady = true ∧
    ({ idle with txReady := false } : State).txReady = false := by decide

/-- Eight bytes and nine; every outcome of the header's decode, with types 0x00, 0x01, 0x02 and 0xFF. -/
theorem witness_HeaderPhase :
    (chosen .sequencer { idle with seq := .uploadHdr, got := body1.take 8 }).SequencerTurn ∧ (body1.take 8).length < 9 ∧
    (chosen .sequencer { idle with seq := .uploadHdr, got := headerChars hdr1 ++ [0x44] }).SequencerTurn ∧ idle.todo = [] ∧
    (idle.txReady = true ∧
      (chosen .sequencer { idle with
        seq := .uploadHdr, got := headerChars hdr1, txReady := false }).SequencerTurn) ∧
    decHdr { hdr1 with marker := 0x3B } = .error .framing ∧
    decHdr { hdr1 with t0 := 0x67 } = .error (.hexDigit .recordType) ∧ decHdr hdr1 = .ok (4, 0x00) ∧
    decHdr { hdr1 with t0 := 0x31 } = .ok (4, 0x01) ∧ decHdr { hdr1 with t0 := 0x32 } = .ok (4, 0x02) ∧
    decHdr { hdr1 with t1 := 0x46, t0 := 0x46 } = .ok (4, 0xFF) :=
  ⟨turn_of (by decide), by decide, turn_of (by decide), rfl, ⟨rfl, turn_of (by decide)⟩, rfl, rfl, rfl, rfl, rfl, rfl⟩

/-- One byte short of the body and the whole of it; an error, a DATA record and an END_OF_FILE record. -/
theorem witness_BodyPhase :
    (chosen .sequencer { idle with seq := .uploadBody, hdr := hdr1, got := body1 }).SequencerTurn ∧ idle.todo = [] ∧
    decByte hdr1.n1 hdr1.n0 = some 4 ∧ (body1.take 9).length < 2 * (4 : Byte).toNat + 2 ∧
    body1.length = 2 * (4 : Byte).toNat + 2 ∧
    (idle.txReady = true ∧
      (chosen .sequencer { idle with
        seq := .uploadBody, hdr := hdr1, got := body1, txReady := false }).SequencerTurn) ∧
    decRec hdr1 (body1.set 9 0x35) = .error .checksum ∧
    decRec hdr1 body1 = .ok rec1 ∧ rec1.recordType = 0x00 ∧
    decRec ⟨0x3A, 0x30, 0x30, 0x30, 0x30, 0x30, 0x30, 0x30, 0x31⟩ [0x46, 0x46] = .ok ⟨0, 0, 1, [], 0xFF⟩ :=
  ⟨turn_of (by decide), rfl, by decide, by decide, by decide, ⟨rfl, turn_of (by decide)⟩, rfl, rfl, rfl, rfl⟩

theorem witness_InvKept : (chosen .receive full).Inv ∧ ∃ t, step (chosen .receive full) = .next t :=
  ⟨by constructor <;> decide, exists_next (by decide)⟩

theorem witness_LaunchMeetsTheInvariants :
    cfg.Admissible ∧ Memory.wf [(15, 0)] ∧ ∀ x ∈ ([(15, 0)] : Memory), x.1 < cfg.flashSize := by decide

theorem witness_ResetValues : fresh = State.resetWith cfg [] := rfl

theorem witness_EntryAndEnablePolicy :
    fresh.cfg.Admissible ∧ fresh.held = false ∧ fresh.seq = .reset ∧ fresh.todo = [] ∧ fresh.cfg.enable = true ∧
    fresh.txReady = true ∧ fresh.got = [] ∧ ({ fresh with txReady := false } : State).txReady = false ∧
    ({ cfg with enable := false } : Config).Admissible ∧ ({ cfg with enable := false } : Config).enable = false := by
  decide

/-- Instructions that meet the premises of the frame's clauses, with a next state each. -/
theorem witness_InstructionFrame :
    (∃ t, exec (.send 1) idle = .next t) ∧ Instr.send 1 ≠ .rxisr ∧ Instr.send 1 ≠ .recv ∧ Instr.send 1 ≠ .handoff ∧
    controlsFlow (.send 1) = false ∧ masks (.send 1) = false ∧ movesSeq (.send 1) = false ∧ answers (.send 1) = false ∧
    decodes (.send 1) = false ∧ stages (.send 1) = false ∧ flushes (.send 1) = false ∧
    (∃ t, exec (.recEof 0 []) staged = .next t) ∧ stages (.recEof 0 []) = false ∧ (∃ t, exec .rxisr full = .next t) ∧
    masks .rxisr = false :=
  ⟨⟨_, rfl⟩, by decide, by decide, by decide, by decide, by decide, by decide, by decide, by decide, by decide, by decide,
    exists_next (by decide), by decide, ⟨_, rfl⟩, by decide⟩

theorem witness_ReceiveTouchesOnlyTransport :
    nextEvent (chosen .receive full) = .receive ∧ ∃ t, step (chosen .receive full) = .next t :=
  ⟨rfl, exists_next (by decide)⟩

/-- FLUSH under way on the staged page, in one open section. -/
def flushing : State := chosen .sequencer (doing .flushErase { staged with I := false, isave := [true] })

theorem balanced_flushing : flushing.SectionsBalanced := by constructor <;> decide

theorem witness_FlashChangesOnlyInFlush :
    ({ flushing with flash := [(4, 0)] } : State).Inv ∧ ({ flushing with flash := [(4, 0)] } : State).SectionsBalanced ∧
    ∃ t, step { flushing with flash := [(4, 0)] } = .next t ∧ t.flash ≠ [(4, 0)] := by
  refine ⟨by constructor <;> decide, by constructor <;> decide, ?_⟩
  have h : reading State.flash (step { flushing with flash := [(4, 0)] }) = some [] := by decide
  generalize step { flushing with flash := [(4, 0)] } = o at h
  cases o with
  | next t => exact ⟨t, rfl, by simp only [reading, Option.some.injEq] at h; rw [h]; decide⟩
  | fault f => cases h
  | refused r => cases h

theorem rww_idle : (chosen .sequencer (doing (.run .flush) { staged with pageStart := 8 })).RwwDisciplined :=
  fun h => by cases h

theorem witness_OnlyAddressFaults :
    (chosen .sequencer (doing (.run .flush) { staged with pageStart := 8 })).RwwDisciplined ∧
    step (chosen .sequencer (doing (.run .flush) { staged with pageStart := 8 })) = .fault .flashWriteToBootSection ∧
    (chosen .sequencer idle).RwwDisciplined ∧ ∃ t, step (chosen .sequencer idle) = .next t := by
  refine ⟨rww_idle, ?_, fun h => by (cases h), exists_next (by decide)⟩
  rw [step_of_admissible (by decide)]
  rfl

/-- STAGE about to be resumed in its own section; and a RECV to be done. -/
def resuming : State :=
  chosen .sequencer { staged with
    I := false, isave := [true], todo := [.stageRest 0 [1], .run .okLineCommitted, .goto .uploadHdr], seq := .uploadBody }

theorem witness_SectionsAreBalanced :
    (flushing.cfg.Admissible ∧ flushing.SectionsBalanced ∧ flushing.VectorDisciplined ∧ flushing.MaskingExact ∧
      ∃ t, step flushing = .next t) ∧
    (resuming.SectionsBalanced ∧ resuming.VectorDisciplined ∧ resuming.MaskingExact ∧ ∃ t, step resuming = .next t) ∧
    (doing (.run .recv) idle).SectionsBalanced ∧ (doing (.run .recv) idle).MaskingExact ∧
    (chosen .sequencer fresh).SectionsBalanced ∧ (chosen .sequencer fresh).MaskingExact :=
  ⟨⟨by decide, balanced_flushing, fun _ => rfl, by constructor <;> decide, exists_next (by decide)⟩,
    ⟨by constructor <;> decide, fun _ => rfl, by constructor <;> decide, exists_next (by decide)⟩,
    by constructor <;> decide, by constructor <;> decide, by constructor <;> decide, by constructor <;> decide⟩

theorem witness_FlowFlagAgrees :
    (chosen .sequencer fresh).FlowAgrees ∧ (chosen .sequencer fresh).EntryOnce ∧ (∃ t, step (chosen .sequencer fresh) = .next t) ∧
    (chosen .receive { full with flowOut := [0x13] }).FlowAgrees ∧ (chosen .receive { full with flowOut := [0x13] }).EntryOnce := by
  refine ⟨by unfold State.FlowAgrees; decide, ⟨by decide, by decide, by decide⟩, exists_next (by decide),
    by unfold State.FlowAgrees; decide, ⟨by decide, by decide, by decide⟩⟩

/-- The step of a `goto`, and a step of the receive agent. -/
theorem witness_SeqFollowsTheTable :
    (chosen .sequencer (doing (.goto .awaitCmd) { idle with seq := .verify })).SeqDisciplined ∧
    (∃ t, step (chosen .sequencer (doing (.goto .awaitCmd) { idle with seq := .verify })) = .next t) ∧
    (chosen .receive full).SeqDisciplined ∧ nextEvent (chosen .receive full) ≠ .sequencer ∧
    ∃ t, step (chosen .receive full) = .next t := by
  refine ⟨⟨.inr ⟨[], .awaitCmd, rfl, by decide, by decide⟩, .inl rfl, fun h => by revert h; decide⟩,
    exists_next (by decide), ⟨.inl (by decide), .inl rfl, fun h => by revert h; decide⟩, by decide,
    exists_next (by decide)⟩

theorem witness_HandedOffIsFinal :
    cfg.Admissible ∧ ({ fresh with seq := .handedOff } : State).Ended := ⟨by decide, ⟨rfl, rfl, rfl, rfl⟩⟩

theorem witness_ReadyByteFirst :
    (chosen .sequencer fresh).ReadyFirst ∧ (∃ t, step (chosen .sequencer fresh) = .next t) ∧
    (chosen .sequencer { idle with wireOut := [0x52] }).ReadyFirst :=
  ⟨fun _ => .inl (by decide), exists_next (by decide), fun _ => .inr rfl⟩

theorem witness_RunParametersAreConstant : ∃ t, step (chosen (.peer 0x55) idle) = .next t := exists_next (by decide)


end Sys2Proof.Tests
end

section
/-! SUPPORT. The scope's two statements: the relations between registers that every step keeps (00_scope.md rule R9), and that
nothing of the block runs after the hand-off (00_scope.md rule R15). -/

namespace Sys2Proof.Machine

/-! ### The peer's byte -/

/-- The peer's byte goes on the wire; the receiver takes it where it has room, and else keeps what it holds (40_transport.md
rule R139). -/
theorem peerStep_cases (b : Byte) (s : State) :
    (s.rxHw.length < s.cfg.rxHwDepth ∧ peerStep b s = { s with wireIn := s.wireIn ++ [b], rxHw := s.rxHw ++ [b] }) ∨
    (s.cfg.rxHwDepth ≤ s.rxHw.length ∧ peerStep b s = { s with wireIn := s.wireIn ++ [b] }) := by
  unfold peerStep
  split
  · rename_i hroom
    exact .inl ⟨hroom, rfl⟩
  · rename_i hfull
    exact .inr ⟨Nat.le_of_not_lt hfull, rfl⟩

/-! ### What an admissible configuration gives (00_scope.md rule R9) -/

theorem State.Inv.rxCap_pos {s : State} (h : s.Inv) : 0 < s.cfg.rxCap := by
  obtain ⟨-, -, hcap, -⟩ := h.admissible
  exact hcap

theorem State.Inv.pageSize_pos {s : State} (h : s.Inv) : 0 < s.cfg.pageSize := by
  obtain ⟨-, -, -, -, hps, -⟩ := h.admissible
  exact hps

theorem State.Inv.flashSize_aligned {s : State} (h : s.Inv) : s.cfg.flashSize % s.cfg.pageSize = 0 := by
  obtain ⟨-, -, -, -, -, -, -, hfs, -⟩ := h.admissible
  exact hfs

/-! ### The receive ring -/

/-- Storing a byte keeps the ring, with room and on overrun (40_transport.md rules R132, R133, R137). -/
theorem State.Inv.enqueued {s : State} (h : s.Inv) (b : Byte) : (enqueue b s).Inv := by
  have hlen : (s.rxbuf.set s.head b).length = s.cfg.rxCap := by rw [List.length_set, h.rxbuf_length]
  have hhead : (s.head + 1) % s.cfg.rxCap < s.cfg.rxCap := Nat.mod_lt _ h.rxCap_pos
  by_cases hf : s.free = 0
  · rw [enqueue_full hf]
    have hmeet : s.head = s.tail := by
      have := h.ring
      rwa [hf, Nat.add_zero, Nat.mod_eq_of_lt h.head_lt] at this
    have hring : ((s.head + 1) % s.cfg.rxCap + s.free) % s.cfg.rxCap = (s.tail + 1) % s.cfg.rxCap := by
      rw [hf, Nat.add_zero, Nat.mod_mod, hmeet]
    exact { h with rxbuf_length := hlen, head_lt := hhead, tail_lt := Nat.mod_lt _ h.rxCap_pos, ring := hring }
  · rw [enqueue_room hf]
    have hring : ((s.head + 1) % s.cfg.rxCap + (s.free - 1)) % s.cfg.rxCap = s.tail := by
      rw [Nat.mod_add_mod, show s.head + 1 + (s.free - 1) = s.head + s.free by omega, h.ring]
    have hfree : s.free - 1 ≤ s.cfg.rxCap := Nat.le_trans (Nat.sub_le ..) h.free_le
    exact { h with rxbuf_length := hlen, head_lt := hhead, free_le := hfree, ring := hring }

/-- Taking the receiver's oldest byte leaves it within its depth (10_state.md rule R36). -/
theorem State.Inv.receiverTaken {s : State} (h : s.Inv) {b : Byte} {bs : List Byte} (hr : s.rxHw = b :: bs) :
    State.Inv { s with rxHw := bs } := by
  have hhw : bs.length ≤ s.cfg.rxHwDepth := by
    have := h.rxHw_length
    rw [hr, List.length_cons] at this
    omega
  exact { h with rxHw_length := hhw }

/-- Taking a byte out keeps the ring (40_transport.md rules R134, R137). -/
theorem State.Inv.dequeued {s : State} (h : s.Inv) (hq : queueFilled s = true) : (dequeue s).Inv := by
  have hring : (s.head + (s.free + 1)) % s.cfg.rxCap = (s.tail + 1) % s.cfg.rxCap := by
    rw [← h.ring, Nat.mod_add_mod, Nat.add_assoc]
  exact { h with
    tail_lt := Nat.mod_lt _ h.rxCap_pos, free_le := (queueFilled_iff s).1 hq, ring := hring }

/-- The ring is sound when it is emptied (40_transport.md rules R137, R140). -/
theorem State.Inv.entered {s : State} (h : s.Inv) :
    State.Inv { s with head := 0, tail := 0, free := s.cfg.rxCap, paused := false, dirty := false } :=
  { h with
    head_lt := h.rxCap_pos, tail_lt := h.rxCap_pos, free_le := Nat.le_refl _
    ring := by simp
    staged_inside := nofun }

/-- The receiver never holds more than it has places for (10_state.md rule R36). -/
theorem State.Inv.peer {s : State} (h : s.Inv) (b : Byte) : (peerStep b s).Inv := by
  rcases peerStep_cases b s with ⟨hroom, e⟩ | ⟨-, e⟩ <;> rw [e]
  · have hhw : (s.rxHw ++ [b]).length ≤ s.cfg.rxHwDepth := by simpa using hroom
    exact { h with rxHw_length := hhw }
  · exact { h with }

/-! ### The staged page and program memory -/

/-- A page that was shadowed from program memory lies inside it, because both are aligned (42_page_buffer.md rules R181,
R183). -/
theorem State.Inv.anchored {a : Word16} {s t : State} (h : s.Inv) (ha : anchor a s = .ok t) : t.Inv := by
  obtain ⟨-, hin, rfl⟩ := anchor_ok ha
  have hbase : (pageBase s.cfg.pageSize a).toNat < s.cfg.flashSize := by
    have := hin 0 h.pageSize_pos
    rwa [Nat.add_zero, Nat.mod_eq_of_lt (BitVec.isLt _)] at this
  exact { h with
    pagebuf_length := Memory.readBytes_length ..
    pageStart_aligned := pageBase_aligned ..
    staged_inside := fun _ => page_below (pageBase_aligned ..) h.flashSize_aligned hbase }

/-- Writing the bytes of the staged page, which begins inside program memory, keeps program memory canonical and in range
(10_state.md rule R40). -/
theorem State.Inv.pageWritten {s : State} (h : s.Inv) (hlt : s.pageStart.toNat < s.cfg.flashSize) {bs : List Byte}
    (hl : bs.length = s.cfg.pageSize) (busy rww : Bool) :
    State.Inv { s with
      spmBusy := busy, rwwEnabled := rww, flash := Memory.writeBytes s.flash s.pageStart.toNat bs } := by
  have hend : s.pageStart.toNat + s.cfg.pageSize ≤ s.cfg.flashSize :=
    page_below h.pageStart_aligned h.flashSize_aligned hlt
  have hinside : ∀ c ∈ Memory.writeBytes s.flash s.pageStart.toNat bs, c.1 < s.cfg.flashSize := by
    intro c hc
    rcases Memory.mem_writeBytes hc with hold | ⟨-, hnew⟩
    · exact h.flash_inside c hold
    · omega
  exact { h with flash_wf := Memory.wf_writeBytes h.flash_wf .., flash_inside := hinside }

/-! ### The step -/

/-- Every elementary update keeps the relations between registers. -/
theorem Micro.keeps_inv {E : Prop} {s t : State} (h : s.Inv) (hm : Micro E s t) : t.Inv := by
  cases hm with
  | dequeued _ hq => exact h.dequeued hq
  | received _ b bs hr => exact (h.receiverTaken hr).enqueued b
  | entered => exact h.entered
  | anchored a _ _ ha => exact h.anchored ha
  | staged a b _ _ => exact { h with pagebuf_length := by simpa using h.pagebuf_length }
  | retired => exact { h with staged_inside := nofun }
  | erased _ _ he =>
    obtain ⟨-, hlt, -, rfl⟩ := flashErase_ok he
    exact h.pageWritten hlt List.length_replicate true false
  | filled n _ _ hf =>
    obtain ⟨f, rfl, hl⟩ := fillWords_next hf
    exact { h with fill_length := hl.trans h.fill_length }
  | programmed _ _ hp =>
    obtain ⟨-, hlt, -, rfl⟩ := flashProgram_ok hp
    exact h.pageWritten hlt (by simp) true false
  | peer b => exact h.peer b
  | _ => exact { h with }

/-- Settles O44: a step is made of elementary updates, and each of them keeps the relations between registers. -/
theorem invKept : Obligations.InvKept := fun _ _ => step_keeps fun _ _ => Micro.keeps_inv

/-! ### After the hand-off -/

/-- The choice of an agent is no event of the block: an ended run stays ended. -/
theorem State.Ended.afterChoice {s : State} (h : s.Ended) : (afterChoice s).Ended := by
  obtain ⟨es, n, e⟩ := afterChoice_eq s
  rw [e]
  exact { h with }

/-- In HANDED_OFF, with nothing left to do, the sequencer's step changes nothing (44_command_sequencer.md rule R236). -/
theorem State.Ended.sequencerStep_eq {s : State} (h : s.Ended) : sequencerStep s = .next s := by
  simp [sequencerStep, advance, h.todo, h.seq]

/-- With interrupts masked and no handler held, the receive agent's step changes nothing (60_exceptions.md rule R276). -/
theorem State.Ended.receiveStep_eq {s : State} (h : s.Ended) : receiveStep s = .next s := by
  simp [receiveStep, receiveEnabled, h.notHeld, h.masked]

/-- `t` is an ended state with program memory, the staged page, the ring buffer, the vector table and the output of `s`. -/
structure State.EndedAs (s t : State) : Prop where
  ended : t.Ended
  flash : t.flash = s.flash
  wireOut : t.wireOut = s.wireOut
  ivsel : t.ivsel = s.ivsel
  dirty : t.dirty = s.dirty
  pagebuf : t.pagebuf = s.pagebuf
  rxbuf : t.rxbuf = s.rxbuf

theorem State.Ended.endedAs_self {s : State} (h : s.Ended) : s.EndedAs s := ⟨h, rfl, rfl, rfl, rfl, rfl, rfl⟩

/-- From an ended state the transmitter, the flash engine and the peer write their own registers alone, and no other agent
writes anything (00_scope.md rule R15). -/
theorem State.Ended.agentStep_next {s : State} (h : s.Ended) (e : Event) :
    ∃ t, agentStep e s = .next t ∧ s.EndedAs t := by
  cases e with
  | sequencer => exact ⟨s, by simp [agentStep, h.notHeld, h.sequencerStep_eq], h.endedAs_self⟩
  | receive => exact ⟨s, h.receiveStep_eq, h.endedAs_self⟩
  | transmitter => exact ⟨transmitterStep s, rfl, { h.endedAs_self with ended := { h with } }⟩
  | flashEngine => exact ⟨flashEngineStep s, rfl, { h.endedAs_self with ended := { h with } }⟩
  | peer b =>
    refine ⟨peerStep b s, rfl, ?_⟩
    rcases peerStep_cases b s with ⟨-, e⟩ | ⟨-, e⟩ <;> rw [e] <;> exact { h.endedAs_self with ended := { h with } }
  | peerTakes => exact ⟨s, rfl, h.endedAs_self⟩

/-- Settles O56, agent by agent. -/
theorem handedOffIsFinal : Obligations.HandedOffIsFinal := by
  intro s ha h
  obtain ⟨t, hstep, ht⟩ := h.afterChoice.agentStep_next (nextEvent s)
  obtain ⟨es, n, e⟩ := afterChoice_eq s
  rw [e] at ht
  exact ⟨t, (step_of_admissible ha).trans hstep, ht.ended, ht.flash, ht.wireOut, ht.ivsel, ht.dirty, ht.pagebuf, ht.rxbuf⟩

end Sys2Proof.Machine
end

section
/-! SUPPORT. The frame of every instruction (10_state.md rules R23 to R42): what each leaves unchanged, and that it sends at most
one byte. -/

namespace Sys2Proof.Machine

/-! ### The frame -/

/-- From `s` to `t` nothing is sent, or one byte with the transmit register free before and not after (40_transport.md rule
R130). -/
def SendsAtMostOne (s t : State) : Prop :=
  (t.wireOut = s.wireOut ∧ t.txReady = s.txReady) ∨
    (s.txReady = true ∧ t.txReady = false ∧ ∃ b, t.wireOut = s.wireOut ++ [b])

/-- From `s` to `t` each piece of state is unchanged but for those that instruction `i` is named as writing. -/
structure Frame (i : Instr) (s t : State) : Prop where
  cfg : t.cfg = s.cfg
  script : t.script = s.script
  tick : t.tick = s.tick
  wireIn : t.wireIn = s.wireIn
  active : t.active = s.active
  cmd : t.cmd = s.cmd
  hdr : t.hdr = s.hdr
  body : t.body = s.body
  record : t.record = s.record
  vaddr : t.vaddr = s.vaddr
  vcount : t.vcount = s.vcount
  fill : t.fill = s.fill
  receiver : i ≠ .rxisr → t.rxHw = s.rxHw ∧ t.rxbuf = s.rxbuf ∧ t.head = s.head ∧ t.held = s.held
  got : i ≠ .recv → t.got = s.got
  queue : i ≠ .recv → i ≠ .rxisr → t.tail = s.tail ∧ t.free = s.free
  flow : controlsFlow i = false → t.paused = s.paused ∧ t.flowOut = s.flowOut
  continuation : i ≠ .handoff → t.ivsel = s.ivsel ∧ ∃ ks, t.todo = ks ++ s.todo
  masking : masks i = false → t.I = s.I ∧ t.isave = s.isave
  seq : movesSeq i = false → t.seq = s.seq
  reply : answers i = false → t.reply = s.reply
  res : decodes i = false → t.res = s.res
  staging : stages i = false → t.pagebuf = s.pagebuf ∧ t.pageStart = s.pageStart ∧ t.dirty = s.dirty
  flashing : flushes i = false → t.flash = s.flash ∧ t.spmBusy = s.spmBusy ∧ t.rwwEnabled = s.rwwEnabled
  sent : SendsAtMostOne s t

theorem SendsAtMostOne.refl (s : State) : SendsAtMostOne s s := .inl ⟨rfl, rfl⟩

/-- A byte is written into the free register: nothing was sent before, and one byte is now. -/
theorem SendsAtMostOne.one {s t u : State} (h : SendsAtMostOne s t) (ht : t.txReady = true) (hu : u.txReady = false)
    {b : Byte} (hw : u.wireOut = t.wireOut ++ [b]) : SendsAtMostOne s u := by
  rcases h with ⟨hwire, hready⟩ | ⟨-, hbusy, -⟩
  · exact .inr ⟨hready ▸ ht, hu, b, hwire ▸ hw⟩
  · rw [hbusy] at ht; cases ht

theorem Frame.refl (i : Instr) (s : State) : Frame i s s where
  cfg := rfl
  script := rfl
  tick := rfl
  wireIn := rfl
  active := rfl
  cmd := rfl
  hdr := rfl
  body := rfl
  record := rfl
  vaddr := rfl
  vcount := rfl
  fill := rfl
  receiver _ := ⟨rfl, rfl, rfl, rfl⟩
  got _ := rfl
  queue _ _ := ⟨rfl, rfl⟩
  flow _ := ⟨rfl, rfl⟩
  continuation _ := ⟨rfl, [], rfl⟩
  masking _ := ⟨rfl, rfl⟩
  seq _ := rfl
  reply _ := rfl
  res _ := rfl
  staging _ := ⟨rfl, rfl, rfl⟩
  flashing _ := ⟨rfl, rfl, rfl⟩
  sent := .refl s

section
variable {i : Instr} {s t u : State}

/-! ### What each update leaves unchanged -/

theorem Frame.push (h : Frame i s t) (k : Task) : Frame i s (push k t) :=
  { h with
    continuation := fun hi => by
      obtain ⟨hv, ks, e⟩ := h.continuation hi
      exact ⟨hv, k :: ks, congrArg (k :: ·) e⟩ }

theorem Frame.pushSends (h : Frame i s t) (bs : List Byte) : Frame i s (pushSends bs t) :=
  { h with
    continuation := fun hi => by
      obtain ⟨hv, ks, e⟩ := h.continuation hi
      exact ⟨hv, bs.map (fun b => Task.run (.send b)) ++ ks, by rw [pushSends_todo, e, List.append_assoc]⟩ }

theorem Frame.goes (h : Frame i s t) (hi : movesSeq i = true) (q : SeqState) : Frame i s { t with seq := q } :=
  { h with seq := fun hn => by simp [hi] at hn }

theorem Frame.replies (h : Frame i s t) (hi : answers i = true) (b : Byte) : Frame i s { t with reply := b } :=
  { h with reply := fun hn => by simp [hi] at hn }

theorem Frame.result (h : Frame i s t) (hi : decodes i = true) (r : Result) : Frame i s (returnResult r t) :=
  { h with res := fun hn => by simp [hi] at hn }

theorem Frame.emit (h : Frame i s t) (ht : t.txReady = true) (b : Byte) : Frame i s (emit b t) :=
  { h with sent := h.sent.one ht rfl rfl }

theorem Frame.emitXon (h : Frame i s t) (hi : controlsFlow i = true) (ht : t.txReady = true) : Frame i s (emitXon t) :=
  { h with
    flow := fun hn => by simp [hi] at hn
    sent := h.sent.one ht rfl rfl }

theorem Frame.emitXoff (h : Frame i s t) (hi : controlsFlow i = true) (ht : t.txReady = true) :
    Frame i s (emitXoff t) :=
  { h with
    flow := fun hn => by simp [hi] at hn
    sent := h.sent.one ht rfl rfl }

theorem Frame.enter (h : Frame i s t) (hi : masks i = true) : Frame i s (enterSection t) :=
  { h with masking := fun hn => by simp [hi] at hn }

theorem Frame.leave (h : Frame i s t) (hi : masks i = true) : Frame i s (leaveSection t) :=
  { h with masking := fun hn => by simp [hi] at hn }

theorem Frame.stageByte (h : Frame i s t) (hi : stages i = true) (a : Word16) (b : Byte) : Frame i s (stageByte a b t) :=
  { h with staging := fun hn => by simp [hi] at hn }

theorem Frame.anchored (h : Frame i s t) (hi : stages i = true) {a : Word16} (ha : anchor a t = .ok u) :
    Frame i s u := by
  obtain ⟨-, -, rfl⟩ := anchor_ok ha
  exact { h with staging := fun hn => by simp [hi] at hn }

theorem Frame.erased (h : Frame i s t) (hi : flushes i = true) {a : Word16} (he : flashErase a t = .ok u) :
    Frame i s u := by
  obtain ⟨-, -, -, rfl⟩ := flashErase_ok he
  exact { h with flashing := fun hn => by simp [hi] at hn }

theorem Frame.dequeued (h : Frame .recv s t) : Frame .recv s (dequeue t) :=
  { h with got := nofun, queue := nofun }

theorem Frame.held (h : Frame .rxisr s t) (b : Bool) : Frame .rxisr s { t with held := b } :=
  { h with receiver := nofun }

/-! ### What each operation leaves unchanged -/

theorem Frame.transmit (h : Frame i s t) (b : Byte) (again : Task) : Frame i s (transmit b again t) := by
  cases ht : t.txReady
  · rw [transmit_busy ht]; exact h.push again
  · rw [transmit_ready ht]; exact h.emit ht b

theorem Frame.status (h : Frame i s t) (hi : answers i = true) (code : BitVec 3) (detail : BitVec 5) (again : Task) :
    Frame i s (sendStatus code detail again t) :=
  (h.replies hi (statusByte code detail)).transmit _ _

theorem Frame.startReply (h : Frame i s t) (bs : List Byte) (hx : startReply bs t = .next u) : Frame i s u := by
  cases bs with
  | nil => rw [← Host.Outcome.next.inj hx]; exact h
  | cons b bs => rw [← Host.Outcome.next.inj hx]; exact (h.pushSends bs).transmit _ _

theorem Frame.finishReceive (h : Frame .recv s t) : Frame .recv s (finishReceive t) := by
  rcases finishReceive_cases t with ⟨-, ht, e⟩ | ⟨-, -, e⟩ | ⟨-, e⟩ <;> rw [e]
  · exact (h.emitXon rfl ht).leave rfl
  · exact (h.push _).push _
  · exact h.leave rfl

theorem Frame.recv (h : Frame .recv s t) (hx : execRecv t = .next u) : Frame .recv s u := by
  unfold execRecv at hx
  split at hx <;> rw [← Host.Outcome.next.inj hx]
  · exact (h.enter rfl).dequeued.finishReceive
  · exact h.push _

theorem Frame.enqueued (h : Frame .rxisr s t) (b : Byte) : Frame .rxisr s (enqueue b t) := by
  by_cases hf : t.free = 0
  · rw [enqueue_full hf]; exact { h with receiver := nofun, queue := nofun }
  · rw [enqueue_room hf]; exact { h with receiver := nofun, queue := nofun }

theorem Frame.takeInterrupt (h : Frame .rxisr s t) : Frame .rxisr s (takeReceiveInterrupt t) := by
  unfold takeReceiveInterrupt
  split
  · exact h
  · rename_i b bs _
    have hr : Frame .rxisr s { t with rxHw := bs } := { h with receiver := nofun }
    exact hr.enqueued b

theorem Frame.returnFromInterrupt (h : Frame .rxisr s t) : Frame .rxisr s (returnFromReceiveInterrupt t) := by
  rcases returnFromReceiveInterrupt_cases t with ⟨-, ht, e⟩ | ⟨-, -, e⟩ | ⟨-, e⟩ <;> rw [e]
  · exact (h.held false).emitXoff rfl ht
  · exact h.held true
  · exact h.held false

theorem Frame.rxisr (h : Frame .rxisr s t) (hx : execRxisr t = .next u) : Frame .rxisr s u := by
  unfold execRxisr at hx
  split at hx <;> rw [← Host.Outcome.next.inj hx]
  · exact h.takeInterrupt.returnFromInterrupt
  · exact h.push _

theorem Frame.flushErase (h : Frame i s t) (hi : flushes i = true) (hx : flushErase t = .next u) : Frame i s u := by
  rcases flushErase_next hx with ⟨-, rfl⟩ | ⟨v, hv, rfl⟩
  · exact h.push _
  · exact (h.erased hi hv).push _

/-- An instruction that can run a FLUSH writes the interrupt flag. -/
theorem masks_of_flushes (hi : flushes i = true) : masks i = true := by
  unfold masks
  split
  · rfl
  · rfl
  · rfl
  · rfl
  · exact hi

theorem Frame.flush (h : Frame i s t) (hi : flushes i = true) (hx : execFlush t = .next u) : Frame i s u :=
  (h.enter (masks_of_flushes hi)).flushErase hi hx

theorem Frame.stageLoop {p : List Byte} {a : Word16} (h : Frame i s t) (hi : flushes i = true) (hs : stages i = true)
    (hx : stageLoop a p t = .next u) : Frame i s u := by
  induction p generalizing a t with
  | nil => rw [← Host.Outcome.next.inj hx]; exact h.leave (masks_of_flushes hi)
  | cons b bs ih =>
    rcases stageLoop_cons hx with ⟨-, hx⟩ | ⟨-, -, hx⟩ | ⟨-, -, v, hv, hx⟩
    · exact ih (h.stageByte hs a b) hx
    · exact (h.push _).flush hi hx
    · exact ih ((h.anchored hs hv).stageByte hs a b) hx

theorem Frame.stage {p : List Byte} {a : Word16} (h : Frame i s t) (hi : flushes i = true) (hs : stages i = true)
    (hx : execStage a p t = .next u) : Frame i s u :=
  (h.enter (masks_of_flushes hi)).stageLoop hi hs hx

theorem Frame.flushPending (h : Frame i s t) (hi : flushes i = true) (hx : execFlushPending t = .next u) :
    Frame i s u := by
  unfold execFlushPending at hx
  split at hx
  · exact ((h.enter (masks_of_flushes hi)).push _).flush hi hx
  · rw [← Host.Outcome.next.inj hx]; exact h

theorem Frame.csLeave (h : Frame i s t) (hi : masks i = true) (hx : execCsLeave t = .next u) : Frame i s u := by
  unfold execCsLeave at hx
  split at hx
  · cases hx
  · rw [← Host.Outcome.next.inj hx]; exact h.leave hi

/-- HANDOFF alone drops what was left to do (44_command_sequencer.md rule R236). -/
theorem Frame.handoff (h : Frame .handoff s t) :
    Frame .handoff s { t with I := false, ivsel := false, seq := .handedOff, todo := [] } :=
  { h with continuation := nofun, masking := nofun, seq := nofun }

theorem Frame.refuseRecord (h : Frame i s t) (hi : answers i = true) (hx : refuseRecord t = .next u) : Frame i s u := by
  rw [← Host.Outcome.next.inj hx]; exact (h.push _).status hi _ _ _

end

/-- Every instruction leaves unchanged what it is not named as writing. -/
theorem exec_frame {i : Instr} {s t : State} (hx : exec i s = .next t) : Frame i s t := by
  have h := Frame.refl i s
  cases i with
  | send b => rw [← Host.Outcome.next.inj hx]; exact h.transmit _ _
  | recv => exact h.recv hx
  | rxisr => exact h.rxisr hx
  | decbyte => rw [← Host.Outcome.next.inj hx]; exact h.result rfl _
  | dechdr => rw [← Host.Outcome.next.inj hx]; exact h.result rfl _
  | decrec => rw [← Host.Outcome.next.inj hx]; exact h.result rfl _
  | stage => exact h.stage rfl rfl hx
  | flushPending => exact h.flushPending rfl hx
  | flush => exact h.flush rfl hx
  | csEnter => rw [← Host.Outcome.next.inj hx]; exact h.enter rfl
  | csLeave => exact h.csLeave rfl hx
  | handoff => rw [← Host.Outcome.next.inj hx]; exact h.handoff
  | cmdQuit => rw [← Host.Outcome.next.inj hx]; exact (h.goes rfl _).status rfl _ _ _
  | cmdUnknown => rw [← Host.Outcome.next.inj hx]; exact ((h.goes rfl _).push _).status rfl _ _ _
  | cmdFuses => exact (h.goes rfl .fuses).startReply (fuseReply s.cfg) hx
  | cmdInfo => exact (h.goes rfl .info).startReply (infoReply s.cfg) hx
  | cmdUpload => rw [← Host.Outcome.next.inj hx]; exact h.goes rfl _
  | cmdVerify => rw [← Host.Outcome.next.inj hx]; exact h.goes rfl _
  | recData => exact ((h.push _).push _).stage rfl rfl hx
  | recEof => exact ((h.push _).push _).flushPending rfl hx
  | recEsa | recSsa | recEla | recSla | recOther => exact h.refuseRecord rfl hx
  | ctlXon =>
    rw [← Host.Outcome.next.inj hx]
    split
    · rename_i ht; exact h.emitXon rfl ht
    · exact h.push _
  | ctlXoff =>
    rw [← Host.Outcome.next.inj hx]
    split
    · rename_i ht; exact h.emitXoff rfl ht
    · exact h.push _
  | ctlReady => rw [← Host.Outcome.next.inj hx]; exact h.transmit _ _
  | _ => rw [← Host.Outcome.next.inj hx]; exact h.status rfl _ _ _

/-- Settles O49, from the frame that every instruction's updates keep. -/
theorem instructionFrame : Obligations.InstructionFrame := by
  intro i s t hx
  have h := exec_frame hx
  exact ⟨h.cfg, h.script, h.tick, h.wireIn, h.active, h.cmd, h.hdr, h.body, h.record, h.vaddr, h.vcount, h.fill, h.receiver,
    h.got, h.queue, h.flow, h.continuation, h.masking, h.seq, h.reply, h.res, h.staging, h.flashing, h.sent⟩

end Sys2Proof.Machine
end

section
/-! SUPPORT. What the sequencer does with nothing left to do, said once: at most one instruction that keeps `seq`, from a state
in which only the sequencer's own registers were written (44_command_sequencer.md rule R220). -/

namespace Sys2Proof.Machine

/-! ### Instructions that move `seq` or leave a `goto` behind, by the simpler ones they end in -/

/-- An instruction that sends one byte and does nothing else: SEND, or a status byte. -/
def isReply : Instr → Bool
  | .send _ => true
  | i => spaceOf i == .sts

/-- The instructions that a rule of the sequencer ends in: a byte to be sent, STAGE, FLUSHPENDING. -/
def isWork : Instr → Bool
  | .stage _ _ => true
  | .flushPending => true
  | i => isReply i

/-- The sending of a reply's byte, as a task. -/
def isReplyTask : Task → Bool
  | .run i => isReply i
  | _ => false

theorem isReplyTask_sends (bs : List Byte) : ∀ k ∈ bs.map (fun b => Task.run (.send b)), isReplyTask k = true := by
  simp only [List.mem_map]
  rintro _ ⟨b, -, rfl⟩
  rfl

/-- A command moves `seq` from AWAIT_CMD along the table and sends its reply, which may be empty (44_command_sequencer.md rules
R223, R230 to R235). -/
theorem exec_command {i : Instr} (hi : spaceOf i = .cmd) (s : State) :
    ∃ q ts, (SeqState.awaitCmd, q) ∈ transitions ∧ q ≠ .uploadBody ∧ (∀ k ∈ ts, isReplyTask k = true) ∧
      (exec i s = .next { s with seq := q, todo := ts ++ s.todo } ∨
        ∃ j, isReply j = true ∧ exec i s = exec j { s with seq := q, todo := ts ++ s.todo }) := by
  cases i with
  | cmdQuit => exact ⟨.quit, [], by decide, nofun, nofun, .inr ⟨.stsQuitting, rfl, rfl⟩⟩
  | cmdFuses => exact ⟨.fuses, _, by decide, nofun, isReplyTask_sends _, .inr ⟨.send s.cfg.fuses.f0, rfl, rfl⟩⟩
  | cmdInfo => exact ⟨.info, _, by decide, nofun, isReplyTask_sends _, .inr ⟨.send _, rfl, rfl⟩⟩
  | cmdUpload => exact ⟨.uploadHdr, [], by decide, nofun, nofun, .inl rfl⟩
  | cmdVerify => exact ⟨.verify, [], by decide, nofun, nofun, .inl rfl⟩
  | cmdUnknown c =>
    exact ⟨.unknown, [.run (.send c)], by decide, nofun, isReplyTask_sends [c], .inr ⟨.stsUnknownCommand, rfl, rfl⟩⟩
  | _ => cases hi

/-- A record's action leaves `seq` as it is, and at its end leads back to the next header or to the command loop
(44_command_sequencer.md rules R226 to R228). -/
theorem exec_record {i : Instr} (hi : spaceOf i = .record) (s : State) :
    ∃ q ts j, (SeqState.uploadBody, q) ∈ transitions ∧ (∀ k ∈ ts, isReplyTask k = true) ∧ isWork j = true ∧
      masks j = masks i ∧ exec i s = exec j { s with todo := ts ++ .goto q :: s.todo } := by
  cases i with
  | recData a p => exact ⟨.uploadHdr, [.run .okLineCommitted], .stage a p, by decide, by decide, rfl, rfl, rfl⟩
  | recEof a p => exact ⟨.awaitCmd, [.run .okFinished], .flushPending, by decide, by decide, rfl, rfl, rfl⟩
  | recEsa | recSsa | recEla | recSla | recOther =>
    exact ⟨.awaitCmd, [], .stsNotImplemented, by decide, nofun, rfl, rfl, rfl⟩
  | _ => cases hi

theorem spaceOf_decodeCmd (b : Byte) : spaceOf (decodeCmd b) = .cmd := by
  unfold decodeCmd
  split_ifs <;> rfl

theorem spaceOf_unimplementedRecord (t n : Byte) (a : AddrChars) : spaceOf (unimplementedRecord t n a) = .record := by
  unfold unimplementedRecord
  split_ifs <;> rfl

theorem spaceOf_instrOfRecord (h : Header) (r : HexRecord) : spaceOf (instrOfRecord h r) = .record := by
  unfold instrOfRecord
  split_ifs
  · rfl
  · rfl
  · exact spaceOf_unimplementedRecord ..

theorem exec_unimplementedRecord (t n : Byte) (a : AddrChars) (s : State) :
    exec (unimplementedRecord t n a) s = exec .stsNotImplemented (push (.goto .awaitCmd) s) := by
  unfold unimplementedRecord
  split_ifs <;> rfl

theorem isReply_statusOfError (e : BlockError) : isReply (statusOfError e) = true := by
  unfold statusOfError
  split <;> rfl

theorem isWork_of_isReply {i : Instr} (h : isReply i = true) : isWork i = true := by
  unfold isWork
  split
  · rfl
  · rfl
  · exact h

/-- What a rule of the sequencer ends in leaves `seq` as it is. -/
theorem keepsSeq_of_isWork {i : Instr} (h : isWork i = true) : keepsSeq i = true := by
  cases i <;> simp_all [isWork, isReply, keepsSeq, spaceOf]

/-! ### The sequencer with nothing left to do -/

/-- The record header is that of a DATA or END_OF_FILE record (44_command_sequencer.md rule R224). -/
def BodyHeader (h : Header) : Prop := ∃ n t, decHdr h = .ok (n, t) ∧ (t = 0x00 ∨ t = 0x01)

/-- With a session under way the sequencer has written nothing but its own registers: `seq` stays or moves along the table, and
replies are left to be sent, with at most one more transition of the table after them (44_command_sequencer.md rule R220). -/
structure Prepared (s s' : State) : Prop where
  underWay : s.seq ≠ .reset ∧ s.seq ≠ .handedOff
  same : s' = { s with
    seq := s'.seq, cmd := s'.cmd, hdr := s'.hdr, body := s'.body, record := s'.record, vaddr := s'.vaddr,
    vcount := s'.vcount, got := s'.got, res := s'.res, todo := s'.todo }
  seq : s'.seq = s.seq ∨ (s.seq, s'.seq) ∈ transitions
  body : s'.seq = .uploadBody → s.seq = .uploadBody ∧ s'.hdr = s.hdr ∨ BodyHeader s'.hdr
  left : ∃ ts, (∀ k ∈ ts, isReplyTask k = true) ∧
    (s'.todo = ts ∨ ∃ q, s'.todo = ts ++ [.goto q] ∧ (s'.seq, q) ∈ transitions ∧ (q = .uploadBody → BodyHeader s'.hdr))

section
variable {s s' : State}

theorem Prepared.cfg_eq (h : Prepared s s') : s'.cfg = s.cfg := by rw [h.same]

theorem Prepared.active_eq (h : Prepared s s') : s'.active = s.active := by rw [h.same]

theorem Prepared.wireIn_eq (h : Prepared s s') : s'.wireIn = s.wireIn := by rw [h.same]

theorem Prepared.wireOut_eq (h : Prepared s s') : s'.wireOut = s.wireOut := by rw [h.same]

theorem Prepared.txReady_eq (h : Prepared s s') : s'.txReady = s.txReady := by rw [h.same]

theorem Prepared.flash_eq (h : Prepared s s') : s'.flash = s.flash := by rw [h.same]

theorem Prepared.spmBusy_eq (h : Prepared s s') : s'.spmBusy = s.spmBusy := by rw [h.same]

end

/-- The answers the sequencer can give in state `s` with nothing left to do. -/
inductive Advance (s : State) : Host.Outcome State Fault Refusal → Prop
  | finished (h : s.seq = .handedOff) : Advance s (.next s)
  | handsOff (b : Bool) (h : s.seq = .reset ∧ b = s.active ∨ s.seq = .quit ∧ b = false ∨ s.active = false ∧ b = false) :
      Advance s (exec .handoff { s with active := b })
  | enters (h : s.seq = .reset) : Advance s (entry s)
  | reads (h : s.seq ≠ .reset ∧ s.seq ≠ .handedOff) : Advance s (exec .recv s)
  | moves (s' : State) (h : Prepared s s') : Advance s (.next s')
  | runs (i : Instr) (s' : State) (hi : isWork i = true) (h : Prepared s s') : Advance s (exec i s')
  | faults (f : Fault) : Advance s (.fault f)

section
variable {s : State} (ht : s.todo = [])
include ht

theorem commandLoop_advance (hq : s.seq = .awaitCmd) : Advance s (commandLoop s) := by
  unfold commandLoop
  split
  · rename_i ha
    exact .handsOff s.active (.inr (.inr ⟨ha, ha⟩))
  · split
    · exact .reads (by simp [hq])
    · rename_i b rest _
      obtain ⟨q, ts, hqt, hqb, hts, hx⟩ := exec_command (spaceOf_decodeCmd b) { s with cmd := b, got := rest }
      have hp : Prepared s { s with cmd := b, got := rest, seq := q, todo := ts ++ s.todo } :=
        { underWay := by simp [hq]
          same := rfl
          seq := .inr (by rw [hq]; exact hqt)
          body := fun h => absurd h hqb
          left := ⟨ts, hts, .inl (by simp [ht])⟩ }
      rcases hx with hx | ⟨j, hj, hx⟩
      · exact (congrArg (Advance s) hx).mpr (.moves _ hp)
      · exact (congrArg (Advance s) hx).mpr (.runs j _ (isWork_of_isReply hj) hp)

theorem headerPhase_advance (hq : s.seq = .uploadHdr) : Advance s (headerPhase s) := by
  have hu : s.seq ≠ .reset ∧ s.seq ≠ .handedOff := by simp [hq]
  have hnb : s.seq ≠ .uploadBody := by simp [hq]
  have hback : (s.seq, SeqState.awaitCmd) ∈ transitions := by rw [hq]; decide
  have hbody : (s.seq, SeqState.uploadBody) ∈ transitions := by rw [hq]; decide
  unfold headerPhase
  split
  · exact .reads hu
  · rename_i h rest _
    split
    · rename_i e _
      exact .runs _ _ (isWork_of_isReply (isReply_statusOfError e))
        { underWay := hu
          same := rfl
          seq := .inl rfl
          body := fun h => absurd h hnb
          left := ⟨[], nofun, .inr ⟨.awaitCmd, by simp [ht], hback, nofun⟩⟩ }
    · rename_i n t hd
      split
      · rename_i h0
        exact .runs _ _ rfl
          { underWay := hu
            same := rfl
            seq := .inl rfl
            body := fun h => absurd h hnb
            left := ⟨[], nofun, .inr ⟨.uploadBody, by simp [ht], hbody, fun _ => ⟨n, t, hd, .inl h0⟩⟩⟩ }
      · split
        · rename_i h1
          exact .moves _
            { underWay := hu
              same := rfl
              seq := .inr hbody
              body := fun _ => .inr ⟨n, t, hd, .inr h1⟩
              left := ⟨[], nofun, .inl ht⟩ }
        · rw [exec_unimplementedRecord]
          exact .runs _ _ rfl
            { underWay := hu
              same := rfl
              seq := .inl rfl
              body := fun h => absurd h hnb
              left := ⟨[], nofun, .inr ⟨.awaitCmd, by simp [ht], hback, nofun⟩⟩ }

theorem bodyPhase_advance (hq : s.seq = .uploadBody) : Advance s (bodyPhase s) := by
  have hu : s.seq ≠ .reset ∧ s.seq ≠ .handedOff := by simp [hq]
  unfold bodyPhase
  split
  · rename_i e _
    exact .runs _ _ (isWork_of_isReply (isReply_statusOfError e))
      { underWay := hu
        same := rfl
        seq := .inl rfl
        body := fun h => .inl ⟨h, rfl⟩
        left := ⟨[], nofun, .inr ⟨.awaitCmd, by simp [ht], by simp [hq, transitions], nofun⟩⟩ }
  · rename_i r _
    obtain ⟨q, ts, j, hqt, hts, hj, -, hx⟩ := exec_record (spaceOf_instrOfRecord s.hdr r) (returnResult (.record r)
      { s with body := s.got.take (bodyLength s.hdr), got := s.got.drop (bodyLength s.hdr), record := r })
    have hb : q ≠ .uploadBody := by rintro rfl; revert hqt; decide
    rw [hx]
    exact .runs _ _ hj
      { underWay := hu
        same := rfl
        seq := .inl rfl
        body := fun h => .inl ⟨h, rfl⟩
        left := ⟨ts, hts, .inr ⟨q, by simp [ht], by simpa [hq] using hqt, fun h => absurd h hb⟩⟩ }

theorem verifyPhase_advance (hq : s.seq = .verify) : Advance s (verifyPhase s) := by
  have hu : s.seq ≠ .reset ∧ s.seq ≠ .handedOff := by simp [hq]
  have hnb : s.seq ≠ .uploadBody := by simp [hq]
  have hback : (s.seq, SeqState.awaitCmd) ∈ transitions := by rw [hq]; decide
  unfold verifyPhase
  split
  · split
    · exact .faults _
    · rename_i data _
      cases data with
      | nil =>
        exact .moves _
          { underWay := hu
            same := rfl
            seq := .inl rfl
            body := fun h => absurd h hnb
            left := ⟨[], nofun, .inr ⟨.awaitCmd, by simp [ht], hback, nofun⟩⟩ }
      | cons b bs =>
        exact .runs (.send b) _ rfl
          { underWay := hu
            same := rfl
            seq := .inl rfl
            body := fun h => absurd h hnb
            left := ⟨_, isReplyTask_sends bs, .inr ⟨.awaitCmd, by simp [ht], hback, nofun⟩⟩ }
  · exact .reads hu

/-- A reply is sent: back to the command loop (rule R220). -/
theorem advance_back (hq : (s.seq, SeqState.awaitCmd) ∈ transitions) (hu : s.seq ≠ .reset ∧ s.seq ≠ .handedOff) :
    Advance s (.next { s with seq := .awaitCmd }) :=
  .moves _ { underWay := hu, same := rfl, seq := .inr hq, body := nofun, left := ⟨[], nofun, .inl ht⟩ }

/-- Everything the sequencer can answer with nothing left to do, by the state `seq`. -/
theorem advance_cases : Advance s (advance s) := by
  unfold advance
  split
  · rename_i hq
    split
    · exact .enters hq
    · exact .handsOff s.active (.inl ⟨hq, rfl⟩)
  · exact commandLoop_advance ht ‹_›
  · exact headerPhase_advance ht ‹_›
  · rename_i hq
    split
    · exact .reads (by simp [hq])
    · exact bodyPhase_advance ht hq
  · exact verifyPhase_advance ht ‹_›
  · rename_i hq; exact advance_back ht (by rw [hq]; decide) (by simp [hq])
  · rename_i hq; exact advance_back ht (by rw [hq]; decide) (by simp [hq])
  · rename_i hq; exact advance_back ht (by rw [hq]; decide) (by simp [hq])
  · rename_i hq; exact .handsOff false (.inr (.inl ⟨hq, rfl⟩))
  · exact .finished ‹_›

end
end Sys2Proof.Machine
end

section
/-! SUPPORT. The parameters and the two wires over one step (10_state.md rules R37, R43). -/

namespace Sys2Proof.Machine

/-- From `s` to `t` the parameters and the inbound wire are unchanged, and at most one byte is sent. -/
structure KeepsWires (s t : State) : Prop where
  cfg : t.cfg = s.cfg
  wireIn : t.wireIn = s.wireIn
  sent : SendsAtMostOne s t

theorem KeepsWires.refl (s : State) : KeepsWires s s := ⟨rfl, rfl, .refl s⟩

theorem Frame.keepsWires {i : Instr} {s t : State} (h : Frame i s t) : KeepsWires s t := ⟨h.cfg, h.wireIn, h.sent⟩

/-- The sequencer's own registers are neither parameters nor wires. -/
theorem Prepared.keepsWires {s s' t : State} (h : Prepared s s') (ht : KeepsWires s' t) : KeepsWires s t where
  cfg := ht.cfg.trans h.cfg_eq
  wireIn := ht.wireIn.trans h.wireIn_eq
  sent := by
    rw [SendsAtMostOne, ← h.wireOut_eq, ← h.txReady_eq]
    exact ht.sent

theorem runTask_keepsWires {k : Task} {s t : State} (hx : runTask k s = .next t) : KeepsWires s t := by
  cases k with
  | run i => exact (exec_frame hx).keepsWires
  | fetch sp bs =>
    simp only [runTask, runEncoded] at hx
    split at hx
    · exact (exec_frame hx).keepsWires
    · cases hx
  | goto q => rw [← Host.Outcome.next.inj hx]; exact { KeepsWires.refl s with }
  | flushErase => exact ((Frame.refl .flush s).flushErase rfl hx).keepsWires
  | flushProgram =>
    rcases flushProgram_next hx with ⟨-, rfl⟩ | ⟨u, v, -, hu, hv, rfl⟩
    · exact { KeepsWires.refl s with }
    · obtain ⟨f, rfl, -⟩ := fillWords_next hu
      obtain ⟨-, -, -, rfl⟩ := flashProgram_ok hv
      exact { KeepsWires.refl s with }
  | flushEnable => rcases flushEnable_next hx with ⟨-, rfl⟩ | ⟨-, rfl⟩ <;> exact { KeepsWires.refl s with }
  | retire => rw [← Host.Outcome.next.inj hx]; exact { KeepsWires.refl s with }
  | stageRest a p =>
    exact { ((Frame.refl (.stage a p) { s with dirty := false }).stageLoop rfl rfl hx).keepsWires with }

theorem advance_keepsWires {s t : State} (ht : s.todo = []) (hx : advance s = .next t) : KeepsWires s t := by
  have ha := advance_cases ht
  generalize advance s = o at ha hx
  cases ha with
  | finished => cases hx; exact .refl s
  | handsOff => exact { (exec_frame hx).keepsWires with }
  | enters => exact { (exec_frame hx).keepsWires with }
  | reads => exact (exec_frame hx).keepsWires
  | moves s' hp => cases hx; exact hp.keepsWires (.refl t)
  | runs i s' _ hp => exact hp.keepsWires (exec_frame hx).keepsWires
  | faults => cases hx

theorem sequencerStep_keepsWires {s t : State} (hx : sequencerStep s = .next t) : KeepsWires s t := by
  unfold sequencerStep at hx
  split at hx
  · exact advance_keepsWires ‹_› hx
  · exact { runTask_keepsWires hx with }

/-- From `s` to `t` the parameters are unchanged and each wire has at most one more byte. -/
structure ExtendsWires (s t : State) : Prop where
  cfg : t.cfg = s.cfg
  wireOut : ∃ bs, bs.length ≤ 1 ∧ t.wireOut = s.wireOut ++ bs
  wireIn : ∃ bs, bs.length ≤ 1 ∧ t.wireIn = s.wireIn ++ bs

theorem KeepsWires.extendsWires {s t : State} (h : KeepsWires s t) : ExtendsWires s t where
  cfg := h.cfg
  wireOut := by
    rcases h.sent with ⟨e, -⟩ | ⟨-, -, b, e⟩
    · exact ⟨[], Nat.zero_le _, by simp [e]⟩
    · exact ⟨[b], Nat.le_refl _, e⟩
  wireIn := ⟨[], Nat.zero_le _, by simp [h.wireIn]⟩

/-- Every agent's step keeps the parameters and adds at most one byte to each wire. -/
theorem agentStep_extendsWires {e : Event} {s t : State} (hx : agentStep e s = .next t) : ExtendsWires s t := by
  have h := KeepsWires.refl s
  have hr := Frame.refl .rxisr s
  rcases agentStep_next hx with
    ⟨-, -, rfl⟩ | ⟨-, -, hq⟩ | ⟨-, -, rfl⟩ | ⟨-, -, -, -, rfl⟩ | ⟨-, -, -, rfl⟩ | ⟨-, rfl⟩ | ⟨-, rfl⟩ | ⟨b, -, rfl⟩ |
    ⟨-, rfl⟩
  · exact h.extendsWires
  · exact (sequencerStep_keepsWires hq).extendsWires
  · exact hr.returnFromInterrupt.keepsWires.extendsWires
  · exact hr.takeInterrupt.returnFromInterrupt.keepsWires.extendsWires
  · exact h.extendsWires
  · exact { h.extendsWires with }
  · exact { h.extendsWires with }
  · rcases peerStep_cases b s with ⟨-, e⟩ | ⟨-, e⟩ <;> rw [e] <;>
      exact { h.extendsWires with wireIn := ⟨[b], Nat.le_refl _, rfl⟩ }
  · exact h.extendsWires

theorem step_extendsWires {s t : State} (hx : step s = .next t) : ExtendsWires s t := by
  obtain ⟨es, n, e⟩ := afterChoice_eq s
  obtain ⟨-, hx⟩ := step_next hx
  rw [e] at hx
  exact { agentStep_extendsWires hx with }

/-- Settles O58, agent by agent. -/
theorem runParametersAreConstant : Obligations.RunParametersAreConstant := fun _ _ hx =>
  have h := step_extendsWires hx
  ⟨h.cfg, h.wireOut, h.wireIn⟩

end Sys2Proof.Machine
end

section
/-! SUPPORT. The registers that say what the sequencer does next and whether it can be interrupted, apart from the rest of the
state, and what each of its tasks can do to them (43_flash_programmer.md rules R201, R206, R207; log entry 2). -/

namespace Sys2Proof.Machine

/-! ### The control registers -/

/-- The part of the state that the sequencing and the critical sections turn on. -/
structure Control where
  seq : SeqState
  active : Bool
  I : Bool
  isave : List Bool
  ivsel : Bool
  hdr : Header
  todo : List Task

def State.control (s : State) : Control where
  seq := s.seq
  active := s.active
  I := s.I
  isave := s.isave
  ivsel := s.ivsel
  hdr := s.hdr
  todo := s.todo

def Control.push (k : Task) (c : Control) : Control := { c with todo := k :: c.todo }

def Control.enter (c : Control) : Control := { c with isave := c.I :: c.isave, I := false }

def Control.leave (c : Control) : Control := { c with I := c.isave.headD c.I, isave := c.isave.tail }

@[simp] theorem control_push (k : Task) (s : State) : (push k s).control = s.control.push k := rfl

@[simp] theorem control_enterSection (s : State) : (enterSection s).control = s.control.enter := rfl

@[simp] theorem control_leaveSection (s : State) : (leaveSection s).control = s.control.leave := rfl

/-! ### What leaves the control registers alone -/

@[simp] theorem control_stageByte (a : Word16) (b : Byte) (s : State) : (stageByte a b s).control = s.control := rfl

theorem control_enqueue (b : Byte) (s : State) : (enqueue b s).control = s.control := by
  unfold enqueue
  split <;> rfl

@[simp] theorem control_takeReceiveInterrupt (s : State) : (takeReceiveInterrupt s).control = s.control := by
  unfold takeReceiveInterrupt
  split
  · rfl
  · exact control_enqueue ..

@[simp] theorem control_returnFromReceiveInterrupt (s : State) : (returnFromReceiveInterrupt s).control = s.control := by
  rcases returnFromReceiveInterrupt_cases s with ⟨-, -, e⟩ | ⟨-, -, e⟩ | ⟨-, e⟩ <;> rw [e] <;> rfl

theorem control_anchor {a : Word16} {s t : State} (h : anchor a s = .ok t) : t.control = s.control := by
  obtain ⟨-, -, rfl⟩ := anchor_ok h
  rfl

theorem control_flashErase {a : Word16} {s t : State} (h : flashErase a s = .ok t) : t.control = s.control := by
  obtain ⟨-, -, -, rfl⟩ := flashErase_ok h
  rfl

/-- Every agent but the sequencer leaves the control registers alone (10_state.md rule R23, 60_exceptions.md rule R271), and
the sequencer does while an RXISR holds it. -/
theorem agentStep_control {e : Event} {s t : State} (hx : agentStep e s = .next t) :
    t.control = s.control ∨ e = .sequencer ∧ sequencerStep s = .next t := by
  rcases agentStep_next hx with
    ⟨-, -, rfl⟩ | ⟨he, -, hq⟩ | ⟨-, -, rfl⟩ | ⟨-, -, -, -, rfl⟩ | ⟨-, -, -, rfl⟩ | ⟨-, rfl⟩ | ⟨-, rfl⟩ | ⟨b, -, rfl⟩ |
    ⟨-, rfl⟩
  · exact .inl rfl
  · exact .inr ⟨he, hq⟩
  · exact .inl (by simp)
  · exact .inl (by simp)
  · exact .inl rfl
  · exact .inl rfl
  · exact .inl rfl
  · rcases peerStep_cases b s with ⟨-, e⟩ | ⟨-, e⟩ <;> rw [e] <;> exact .inl rfl
  · exact .inl rfl

@[simp] theorem control_afterChoice (s : State) : (afterChoice s).control = s.control := by
  obtain ⟨es, n, e⟩ := afterChoice_eq s
  rw [e]
  rfl

/-! ### What a task can do to them -/

/-- The first two parts of FLUSH, which end in a wait for the flash engine (43_flash_programmer.md rule R201). -/
def isFlushPart (k : Task) : Prop := k = .flushErase ∨ k = .flushProgram

/-- The changes task `k`, taken off what is left, can make to the control registers, for the tasks that leave `seq` alone. -/
inductive Effect : Task → Control → Control → Prop
  /-- An instruction that is done, or that leaves the section it has entered. -/
  | done (i : Instr) (c : Control) (h : i ≠ .csEnter ∧ i ≠ .csLeave) : Effect (.run i) c c
  /-- A wait: the task is tried again (00_scope.md rule R13). -/
  | waits (k : Task) (c : Control) : Effect k c (c.push k)
  /-- RECV held at Tx(XON) in its section (40_transport.md rule R134). -/
  | recvHeld (c : Control) : Effect (.run .recv) c ((c.enter.push (.run .csLeave)).push (.run .ctlXon))
  | csEnter (c : Control) : Effect (.run .csEnter) c c.enter
  /-- The end of a section. -/
  | leaves (k : Task) (c : Control) (h : sectionsLeftBy k = 1) : Effect k c c.leave
  /-- FLUSH up to its first wait. -/
  | flush (f : Task) (hf : isFlushPart f) (c : Control) : Effect (.run .flush) c (c.enter.push f)
  | flushPending (f : Task) (hf : isFlushPart f) (c : Control) :
      Effect (.run .flushPending) c ((c.enter.push .retire).enter.push f)
  /-- STAGE interrupted by a flush (42_page_buffer.md rule R182). -/
  | stage (a a' : Word16) (p p' : List Byte) (f : Task) (hf : isFlushPart f) (c : Control) :
      Effect (.run (.stage a p)) c ((c.enter.push (.stageRest a' p')).enter.push f)
  | stageRest (a a' : Word16) (p p' : List Byte) (f : Task) (hf : isFlushPart f) (c : Control) :
      Effect (.stageRest a p) c ((c.push (.stageRest a' p')).enter.push f)
  | erased (c : Control) : Effect .flushErase c (c.push .flushProgram)
  | programmed (c : Control) : Effect .flushProgram c (c.push .flushEnable)

section
variable {s t : State}

theorem transmit_effect {i : Instr} (hi : i ≠ .csEnter ∧ i ≠ .csLeave) (b : Byte) (s : State) :
    Effect (.run i) s.control (transmit b (.run i) s).control := by
  cases hr : s.txReady
  · rw [transmit_busy hr]; exact .waits ..
  · rw [transmit_ready hr]; exact .done _ _ hi

theorem sendStatus_effect {i : Instr} (hi : i ≠ .csEnter ∧ i ≠ .csLeave) (code : BitVec 3) (detail : BitVec 5) (s : State) :
    Effect (.run i) s.control (sendStatus code detail (.run i) s).control :=
  transmit_effect hi _ { s with reply := statusByte code detail }

theorem execRecv_effect (hx : execRecv s = .next t) : Effect (.run .recv) s.control t.control := by
  unfold execRecv at hx
  split at hx <;> rw [← Host.Outcome.next.inj hx]
  · rcases finishReceive_cases (dequeue (enterSection s)) with ⟨-, -, e⟩ | ⟨-, -, e⟩ | ⟨-, e⟩ <;> rw [e]
    · exact .done _ _ (by decide)
    · exact .recvHeld _
    · exact .done _ _ (by decide)
  · exact .waits ..

theorem execRxisr_effect (hx : execRxisr s = .next t) : Effect (.run .rxisr) s.control t.control := by
  unfold execRxisr at hx
  split at hx <;> rw [← Host.Outcome.next.inj hx]
  · rw [control_returnFromReceiveInterrupt, control_takeReceiveInterrupt]; exact .done _ _ (by decide)
  · exact .waits ..

/-- FLUSH's first two steps end in one of its waits. -/
theorem flushErase_control (hx : flushErase s = .next t) :
    ∃ f, isFlushPart f ∧ t.control = s.control.push f := by
  rcases flushErase_next hx with ⟨-, rfl⟩ | ⟨u, hu, rfl⟩
  · exact ⟨.flushErase, .inl rfl, rfl⟩
  · exact ⟨.flushProgram, .inr rfl, by rw [control_push, control_flashErase hu]⟩

theorem execFlush_control (hx : execFlush s = .next t) :
    ∃ f, isFlushPart f ∧ t.control = s.control.enter.push f := flushErase_control hx

/-- STAGE's loop leaves its section, or is interrupted by a flush with a rest still to be staged. -/
theorem stageLoop_control {p : List Byte} {a : Word16} (hx : stageLoop a p s = .next t) :
    t.control = s.control.leave ∨
      ∃ a' p' f, isFlushPart f ∧ t.control = (s.control.push (.stageRest a' p')).enter.push f := by
  induction p generalizing a s with
  | nil => rw [← Host.Outcome.next.inj hx]; exact .inl rfl
  | cons b bs ih =>
    rcases stageLoop_cons hx with ⟨-, hx⟩ | ⟨-, -, hx⟩ | ⟨-, -, u, hu, hx⟩
    · simpa using ih hx
    · exact .inr ⟨a, b :: bs, execFlush_control hx⟩
    · simpa [control_anchor hu] using ih hx

theorem execStage_effect {p : List Byte} {a : Word16} (hx : execStage a p s = .next t) :
    Effect (.run (.stage a p)) s.control t.control := by
  rcases stageLoop_control hx with e | ⟨a', p', f, hf, e⟩ <;> rw [e]
  · exact .done _ _ (by simp)
  · exact .stage a a' p p' f hf _

theorem execFlushPending_effect (hx : execFlushPending s = .next t) :
    Effect (.run .flushPending) s.control t.control := by
  unfold execFlushPending at hx
  split at hx
  · obtain ⟨f, hf, e⟩ := execFlush_control hx
    rw [e]
    exact .flushPending f hf _
  · rw [← Host.Outcome.next.inj hx]; exact .done _ _ (by decide)

theorem execCsLeave_effect (hx : execCsLeave s = .next t) : Effect (.run .csLeave) s.control t.control := by
  unfold execCsLeave at hx
  split at hx
  · cases hx
  · rw [← Host.Outcome.next.inj hx]; exact .leaves _ _ rfl

/-- What an instruction that leaves `seq` alone does to the control registers. -/
theorem exec_effect {i : Instr} (hi : keepsSeq i = true) (hx : exec i s = .next t) :
    Effect (.run i) s.control t.control := by
  cases i with
  | recv => exact execRecv_effect hx
  | rxisr => exact execRxisr_effect hx
  | stage => exact execStage_effect hx
  | flushPending => exact execFlushPending_effect hx
  | flush =>
    obtain ⟨f, hf, e⟩ := execFlush_control hx
    rw [e]
    exact .flush f hf _
  | csEnter => rw [← Host.Outcome.next.inj hx]; exact .csEnter _
  | csLeave => exact execCsLeave_effect hx
  | send => rw [← Host.Outcome.next.inj hx]; exact transmit_effect (by simp) _ _
  | ctlReady => rw [← Host.Outcome.next.inj hx]; exact transmit_effect (by simp) _ _
  | decbyte | dechdr | decrec => rw [← Host.Outcome.next.inj hx]; exact .done _ _ (by simp)
  | ctlXon | ctlXoff =>
    rw [← Host.Outcome.next.inj hx]
    split
    · exact .done _ _ (by simp)
    · exact .waits ..
  | handoff | cmdQuit | cmdFuses | cmdInfo | cmdUpload | cmdVerify | cmdUnknown | recData | recEof | recEsa | recSsa | recEla
  | recSla | recOther => cases hi
  | _ => rw [← Host.Outcome.next.inj hx]; exact sendStatus_effect (by simp) _ _ _

/-- What a task that leaves `seq` alone does to the control registers. -/
theorem runTask_effect {k : Task} (hk : taskKeepsSeq k = true) (hx : runTask k s = .next t) :
    Effect k s.control t.control := by
  cases k with
  | run i => exact exec_effect hk hx
  | fetch | goto => cases hk
  | flushErase =>
    rcases flushErase_next hx with ⟨-, rfl⟩ | ⟨u, hu, rfl⟩
    · exact .waits ..
    · rw [control_push, control_flashErase hu]; exact .erased _
  | flushProgram =>
    rcases flushProgram_next hx with ⟨-, rfl⟩ | ⟨u, v, -, hu, hv, rfl⟩
    · exact .waits ..
    · obtain ⟨f, rfl, -⟩ := fillWords_next hu
      obtain ⟨-, -, -, rfl⟩ := flashProgram_ok hv
      exact .programmed _
  | flushEnable =>
    rcases flushEnable_next hx with ⟨-, rfl⟩ | ⟨-, rfl⟩
    · exact .waits ..
    · exact .leaves _ _ rfl
  | retire => rw [← Host.Outcome.next.inj hx]; exact .leaves _ _ rfl
  | stageRest a p =>
    rcases stageLoop_control hx with e | ⟨a', p', f, hf, e⟩ <;> rw [e]
    · exact .leaves _ _ rfl
    · exact .stageRest a a' p p' f hf _

end
end Sys2Proof.Machine
end

section
/-! SUPPORT. The sequencer's state moves along the transition table (44_command_sequencer.md rule R220). -/

namespace Sys2Proof.Machine

/-! ### Going on without moving `seq` -/

/-- From `c` to `c'` the sequencer goes on with the same operation: `seq` stays, and what was left stays left, after tasks that
leave `seq` alone. -/
structure Control.Follows (c c' : Control) : Prop where
  seq : c'.seq = c.seq
  active : c'.active = c.active
  hdr : c'.hdr = c.hdr
  left : ∃ ks, (∀ k ∈ ks, taskKeepsSeq k = true) ∧ c'.todo = ks ++ c.todo

theorem Control.Follows.refl (c : Control) : c.Follows c := ⟨rfl, rfl, rfl, [], nofun, rfl⟩

theorem Control.Follows.push {c c' : Control} (h : c.Follows c') {k : Task} (hk : taskKeepsSeq k = true) :
    c.Follows (c'.push k) :=
  { h with
    left := by
      obtain ⟨ks, hks, e⟩ := h.left
      exact ⟨k :: ks, List.forall_mem_cons.2 ⟨hk, hks⟩, congrArg (k :: ·) e⟩ }

theorem Control.Follows.enter {c c' : Control} (h : c.Follows c') : c.Follows c'.enter := { h with }

theorem Control.Follows.leave {c c' : Control} (h : c.Follows c') : c.Follows c'.leave := { h with }

theorem isFlushPart.keepsSeq {k : Task} (h : isFlushPart k) : taskKeepsSeq k = true := by
  rcases h with rfl | rfl <;> rfl

/-- A task that leaves `seq` alone leaves only such tasks behind. -/
theorem Effect.follows {k : Task} {c c' : Control} (hk : taskKeepsSeq k = true) (e : Effect k c c') : c.Follows c' := by
  have h := Control.Follows.refl c
  cases e with
  | done => exact h
  | waits => exact h.push hk
  | recvHeld => exact (h.enter.push rfl).push rfl
  | csEnter => exact h.enter
  | leaves => exact h.leave
  | flush f hf => exact h.enter.push hf.keepsSeq
  | flushPending f hf => exact ((h.enter.push rfl).enter).push hf.keepsSeq
  | stage a a' p p' f hf => exact ((h.enter.push rfl).enter).push hf.keepsSeq
  | stageRest a a' p p' f hf => exact ((h.push rfl).enter).push hf.keepsSeq
  | erased => exact h.push rfl
  | programmed => exact h.push rfl

section
variable {s t : State}

/-- Going on keeps the discipline. -/
theorem State.SeqDisciplined.follows (h : s.SeqDisciplined) (f : s.control.Follows t.control) : t.SeqDisciplined := by
  obtain ⟨ks, hks, htodo⟩ : ∃ ks, (∀ k ∈ ks, taskKeepsSeq k = true) ∧ t.todo = ks ++ s.todo := f.left
  have hseq : t.seq = s.seq := f.seq
  have hactive : t.active = s.active := f.active
  have hhdr : t.hdr = s.hdr := f.hdr
  have hall : (∀ k ∈ s.todo, taskKeepsSeq k = true) → ∀ k ∈ t.todo, taskKeepsSeq k = true := fun hs => by
    rw [htodo]
    exact List.forall_mem_append.2 ⟨hks, hs⟩
  refine ⟨?_, ?_, ?_⟩
  · rcases h.tasks with hs | ⟨ts, q, e, hts, hq⟩
    · exact .inl (hall hs)
    · exact .inr ⟨ks ++ ts, q, by rw [htodo, e, List.append_assoc], List.forall_mem_append.2 ⟨hks, hts⟩, hseq ▸ hq⟩
  · rw [hseq, hactive]
    exact h.active.imp_right (Or.imp_right (And.imp_right hall))
  · rw [hseq, hhdr, htodo]
    rintro (hb | hb)
    · exact h.decoded (.inl hb)
    · rcases List.mem_append.1 hb with hb | hb
      · exact absurd (hks _ hb) (by decide)
      · exact h.decoded (.inr hb)

/-- What is left begins with a task that leaves `seq` alone, or it is one transition of the table. -/
theorem State.SeqDisciplined.head (h : s.SeqDisciplined) {k : Task} {ts : List Task} (ht : s.todo = k :: ts) :
    (taskKeepsSeq k = true ∧ State.SeqDisciplined { s with todo := ts }) ∨
      ∃ q, k = .goto q ∧ ts = [] ∧ (s.seq, q) ∈ transitions := by
  have hmem : ∀ u ∈ ts, u ∈ s.todo := fun u hu => ht ▸ List.mem_cons_of_mem _ hu
  have htail : (∀ t ∈ ts, taskKeepsSeq t = true) ∨
      (∃ us q, ts = us ++ [.goto q] ∧ (∀ t ∈ us, taskKeepsSeq t = true) ∧ (s.seq, q) ∈ transitions) →
      State.SeqDisciplined { s with todo := ts } := fun htasks =>
    { tasks := htasks
      active := h.active.imp_right (Or.imp_right (And.imp_right fun ha u hu => ha u (hmem u hu)))
      decoded := fun hb => h.decoded (hb.imp_right (hmem _)) }
  rcases h.tasks with hs | ⟨us, q, e, hus, hq⟩
  · rw [ht] at hs
    obtain ⟨hk, hts⟩ := List.forall_mem_cons.1 hs
    exact .inl ⟨hk, htail (.inl hts)⟩
  · rw [ht] at e
    cases us with
    | nil =>
      obtain ⟨rfl, rfl⟩ := List.cons.inj e
      exact .inr ⟨q, rfl, rfl, hq⟩
    | cons u us =>
      obtain ⟨rfl, rfl⟩ := List.cons.inj e
      obtain ⟨hk, hus⟩ := List.forall_mem_cons.1 hus
      exact .inl ⟨hk, htail (.inr ⟨us, q, rfl, hus, hq⟩)⟩

/-! ### Moving along the table -/

/-- Nothing leads out of HANDED_OFF. -/
theorem not_transition_from_handedOff (q : SeqState) : (SeqState.handedOff, q) ∉ transitions := by
  cases q <;> decide

/-- With a session under way the flag `active` is set (10_state.md rule R24). -/
theorem State.SeqDisciplined.active_of (h : s.SeqDisciplined) (hu : s.seq ≠ .reset ∧ s.seq ≠ .handedOff) :
    s.active = true := by
  rcases h.active with ha | hq | ⟨hq, -⟩
  · exact ha
  · exact absurd hq hu.2
  · exact absurd hq hu.1

/-- The transition that was left is made. -/
theorem State.SeqDisciplined.goto (h : s.SeqDisciplined) {q : SeqState} (ht : s.todo = [.goto q])
    (hq : (s.seq, q) ∈ transitions) : State.SeqDisciplined { s with todo := [], seq := q } := by
  refine ⟨.inl nofun, ?_, ?_⟩
  · rcases h.active with ha | hs | ⟨-, hall⟩
    · exact .inl ha
    · rw [hs] at hq
      exact absurd hq (not_transition_from_handedOff q)
    · exact absurd (hall (.goto q) (by simp [ht])) nofun
  · rintro (rfl | hb)
    · exact h.decoded (.inr (by simp [ht]))
    · cases hb

theorem isReply_keepsSeq {k : Task} (h : isReplyTask k = true) : taskKeepsSeq k = true := by
  cases k with
  | run i => exact keepsSeq_of_isWork (isWork_of_isReply h)
  | _ => cases h

/-- What the sequencer has prepared is disciplined again. -/
theorem Prepared.seqDisciplined {s' : State} (hp : Prepared s s') (h : s.SeqDisciplined) : s'.SeqDisciplined := by
  have hactive : s'.active = true := hp.active_eq.trans (h.active_of hp.underWay)
  obtain ⟨ts, hts, hleft⟩ := hp.left
  have hks : ∀ k ∈ ts, taskKeepsSeq k = true := fun k hk => isReply_keepsSeq (hts k hk)
  have hbody : s'.seq = .uploadBody → BodyHeader s'.hdr := fun hb => by
    rcases hp.body hb with ⟨hq, e⟩ | hh
    · rw [e]; exact h.decoded (.inl hq)
    · exact hh
  rcases hleft with e | ⟨q, e, hq, hqb⟩
  · refine ⟨.inl (e ▸ hks), .inl hactive, ?_⟩
    rintro (hb | hb)
    · exact hbody hb
    · exact absurd (hks _ (e ▸ hb)) (by decide)
  · refine ⟨.inr ⟨ts, q, e, hks, hq⟩, .inl hactive, ?_⟩
    rintro (hb | hb)
    · exact hbody hb
    · rw [e] at hb
      rcases List.mem_append.1 hb with hb | hb
      · exact absurd (hks _ hb) (by decide)
      · have hqe : SeqState.uploadBody = q := by simpa using hb
        exact hqb hqe.symm

/-- From `s` to `t` the sequencer's state stays or moves along a row of the table, and is disciplined again. -/
def MovesAlong (s t : State) : Prop := (t.seq = s.seq ∨ (s.seq, t.seq) ∈ transitions) ∧ t.SeqDisciplined

theorem State.SeqDisciplined.stays (h : s.SeqDisciplined) (f : s.control.Follows t.control) : MovesAlong s t :=
  ⟨.inl f.seq, h.follows f⟩

theorem runTask_movesAlong {k : Task} {ts : List Task} (h : s.SeqDisciplined) (ht : s.todo = k :: ts)
    (hx : runTask k { s with todo := ts } = .next t) : MovesAlong s t := by
  rcases h.head ht with ⟨hk, htail⟩ | ⟨q, rfl, rfl, hq⟩
  · exact htail.stays ((runTask_effect hk hx).follows hk)
  · rw [← Host.Outcome.next.inj hx]
    exact ⟨.inr hq, h.goto ht hq⟩

/-- Entry leaves the ready byte and the step to the command loop (70_reset_and_hazards.md rule R302). -/
theorem entry_movesAlong (hq : s.seq = .reset) (ht : s.todo = []) (hx : entry s = .next t) : MovesAlong s t := by
  have hs : (push (.goto .awaitCmd) { s with
      active := true, head := 0, tail := 0, free := s.cfg.rxCap, paused := false, dirty := false, ivsel := true, I := true,
      got := [] }).SeqDisciplined :=
    { tasks := .inr ⟨[], .awaitCmd, by simp [ht], nofun, by simp [hq, transitions]⟩
      active := .inl rfl
      decoded := by simp [hq, ht] }
  exact hs.stays ((exec_effect rfl hx).follows rfl)

/-- The hand-off (rule R236) is reached from RESET and from QUIT alone, because the session is active in between. -/
theorem handoff_movesAlong (h : s.SeqDisciplined) {b : Bool}
    (hq : s.seq = .reset ∧ b = s.active ∨ s.seq = .quit ∧ b = false ∨ s.active = false ∧ b = false)
    (hx : exec .handoff { s with active := b } = .next t) : MovesAlong s t := by
  rw [← Host.Outcome.next.inj hx]
  refine ⟨?_, .inl nofun, .inr (.inl rfl), by simp⟩
  rcases hq with ⟨hq, -⟩ | ⟨hq, -⟩ | ⟨ha, -⟩
  · exact .inr (by simp [hq, transitions])
  · exact .inr (by simp [hq, transitions])
  · rcases h.active with ha' | hq | ⟨hq, -⟩
    · rw [ha] at ha'; cases ha'
    · exact .inl hq.symm
    · exact .inr (by simp [hq, transitions])

theorem advance_movesAlong (h : s.SeqDisciplined) (ht : s.todo = []) (hx : advance s = .next t) : MovesAlong s t := by
  have ha := advance_cases ht
  generalize advance s = o at ha hx
  cases ha with
  | finished => cases hx; exact h.stays (.refl _)
  | handsOff b hq => exact handoff_movesAlong h hq hx
  | enters hq => exact entry_movesAlong hq ht hx
  | reads => exact h.stays ((exec_effect rfl hx).follows rfl)
  | moves s' hp => cases hx; exact ⟨hp.seq, hp.seqDisciplined h⟩
  | runs i s' hi hp =>
    have hk : taskKeepsSeq (.run i) = true := keepsSeq_of_isWork hi
    have f := (exec_effect hk hx).follows hk
    have hseq : t.seq = s'.seq := f.seq
    exact ⟨hseq ▸ hp.seq, (hp.seqDisciplined h).follows f⟩
  | faults => cases hx

theorem sequencerStep_movesAlong (h : s.SeqDisciplined) (hx : sequencerStep s = .next t) : MovesAlong s t := by
  unfold sequencerStep at hx
  split at hx
  · exact advance_movesAlong h ‹_› hx
  · exact runTask_movesAlong h ‹_› hx

end

/-- Settles O55: the other agents leave the control registers alone, and the sequencer's step goes on with the operation in
progress, makes the one transition left, or begins what the table says. -/
theorem seqFollowsTheTable : Obligations.SeqFollowsTheTable := by
  intro s t h hx
  obtain ⟨es, n, e⟩ := afterChoice_eq s
  obtain ⟨-, hx⟩ := step_next hx
  rw [e] at hx
  rcases agentStep_control hx with hc | ⟨he, hq⟩
  · have hseq : t.seq = s.seq := congrArg Control.seq hc
    exact ⟨fun _ => hseq, .inl hseq, h.follows (hc ▸ .refl _)⟩
  · obtain ⟨hseq, hd⟩ := sequencerStep_movesAlong (s := { s with script := es, tick := n }) { h with } hq
    exact ⟨fun hn => absurd he hn, hseq, hd⟩

end Sys2Proof.Machine
end

section
/-! SUPPORT. Critical sections: each is left by exactly one task still to be done, interrupts are masked exactly inside them, and
no step is refused (43_flash_programmer.md rules R206, R207; 44_command_sequencer.md rule R221; 70_reset_and_hazards.md rules R313,
R323). -/

namespace Sys2Proof.Machine

/-! ### Sections opened and left -/

/-- The registers' sections and vector table are in order, with `n` more sections open than the tasks left will leave. -/
structure Control.Sectioned (n : Nat) (c : Control) : Prop where
  tasks : ∀ t ∈ c.todo, ruleTask t = true
  depth : c.isave.length = n + (c.todo.map sectionsLeftBy).sum
  masked : c.isave ≠ [] → c.I = false
  inner : ∀ b ∈ c.isave.dropLast, b = false
  vector : c.I = true ∨ true ∈ c.isave → c.ivsel = true

theorem sectioned_iff {s : State} : s.control.Sectioned 0 ↔ s.SectionsBalanced ∧ s.VectorDisciplined := by
  constructor
  · exact fun h => ⟨⟨h.tasks, h.depth.trans (Nat.zero_add _), h.masked, h.inner⟩, h.vector⟩
  · exact fun ⟨h, hv⟩ => ⟨h.tasks, h.depth.trans (Nat.zero_add _).symm, h.masked, h.inner, hv⟩

section
variable {c c' : Control} {n : Nat}

theorem Control.Sectioned.push (h : c.Sectioned n) {k : Task} (hk : ruleTask k = true) {m : Nat}
    (hn : n = m + sectionsLeftBy k) : (c.push k).Sectioned m :=
  { h with
    tasks := List.forall_mem_cons.2 ⟨hk, h.tasks⟩
    depth := by
      have := h.depth
      simp only [Control.push, List.map_cons, List.sum_cons]
      omega }

theorem Control.Sectioned.pop (h : c.Sectioned 0) {k : Task} {ts : List Task} (ht : c.todo = k :: ts) :
    ruleTask k = true ∧ Control.Sectioned (sectionsLeftBy k) { c with todo := ts } := by
  have hall := h.tasks
  rw [ht] at hall
  obtain ⟨hk, hts⟩ := List.forall_mem_cons.1 hall
  have hdepth := h.depth
  rw [ht, List.map_cons, List.sum_cons, Nat.zero_add] at hdepth
  exact ⟨hk, { h with tasks := hts, depth := hdepth }⟩

theorem Control.Sectioned.enter (h : c.Sectioned n) : c.enter.Sectioned (n + 1) where
  tasks := h.tasks
  depth := by
    have := h.depth
    simp only [Control.enter, List.length_cons]
    omega
  masked _ := rfl
  inner b hb := by
    cases hs : c.isave with
    | nil => simp [Control.enter, hs] at hb
    | cons d l =>
      have hI : c.I = false := h.masked (by simp [hs])
      rw [Control.enter, hs, List.dropLast_cons_cons, List.mem_cons, hI] at hb
      rcases hb with rfl | hb
      · rfl
      · exact h.inner b (hs ▸ hb)
  vector := by
    rintro (hI | hs)
    · cases hI
    · rcases List.mem_cons.1 hs with hI | hs
      · exact h.vector (.inl hI.symm)
      · exact h.vector (.inr hs)

theorem Control.Sectioned.leave (h : c.Sectioned (n + 1)) : c.leave.Sectioned n := by
  cases hs : c.isave with
  | nil =>
    have := h.depth
    rw [hs, List.length_nil] at this
    omega
  | cons b l =>
    have hc : c.leave = { c with I := b, isave := l } := by simp [Control.leave, hs]
    rw [hc]
    have hdepth := h.depth
    have hinner := h.inner
    have hvector := h.vector
    rw [hs] at hdepth hinner hvector
    refine ⟨h.tasks, ?_, fun hl => ?_, fun d hd => ?_, fun hb => ?_⟩
    · show l.length = n + (c.todo.map sectionsLeftBy).sum
      simp only [List.length_cons] at hdepth
      omega
    · obtain ⟨d, l, rfl⟩ := List.exists_cons_of_ne_nil hl
      exact hinner b (by simp)
    · cases l with
      | nil => cases hd
      | cons e l => exact hinner d (List.mem_cons_of_mem _ hd)
    · refine hvector (.inr ?_)
      rcases hb with rfl | hb
      · exact List.mem_cons_self
      · exact List.mem_cons_of_mem _ hb

/-- With nothing left to do no section is open. -/
theorem Control.Sectioned.isave_nil (h : c.Sectioned 0) (ht : c.todo = []) : c.isave = [] := by
  have := h.depth
  rw [ht] at this
  exact List.length_eq_zero_iff.1 this

theorem isFlushPart.rule {f : Task} (h : isFlushPart f) : ruleTask f = true ∧ sectionsLeftBy f = 1 := by
  rcases h with rfl | rfl <;> exact ⟨rfl, rfl⟩

theorem sectionsLeftBy_run {i : Instr} (h : i ≠ .csLeave) : sectionsLeftBy (.run i) = 0 := by
  unfold sectionsLeftBy
  split <;> simp_all

/-- A task that leaves `seq` alone leaves behind as many tasks that leave a section as it has opened or was to leave. -/
theorem Effect.sectioned {k : Task} (h : c.Sectioned (sectionsLeftBy k)) (hk : ruleTask k = true) (e : Effect k c c') :
    c'.Sectioned 0 := by
  cases e with
  | done i _ hi => rwa [sectionsLeftBy_run hi.2] at h
  | waits => exact h.push hk (by simp)
  | recvHeld => exact (h.enter.push rfl rfl).push rfl rfl
  | csEnter => cases hk
  | leaves _ _ hl => rw [hl] at h; exact h.leave
  | flush f hf => exact h.enter.push hf.rule.1 (by rw [hf.rule.2]; rfl)
  | flushPending f hf => exact (h.enter.push (m := 0) rfl rfl).enter.push hf.rule.1 (by simp [hf.rule.2])
  | stage a a' p p' f hf => exact (h.enter.push (m := 0) rfl rfl).enter.push hf.rule.1 (by simp [hf.rule.2])
  | stageRest a a' p p' f hf => exact (h.push (m := 0) rfl rfl).enter.push hf.rule.1 (by simp [hf.rule.2])
  | erased => exact h.push rfl rfl
  | programmed => exact h.push rfl rfl

/-! ### Tasks that open and leave no section -/

/-- What a command, a record or a phase leaves to be done after its own operation: a reply, a step back to the loop. -/
def leftover : Task → Bool
  | .run i => isReply i
  | .goto q => q != .reset
  | _ => false

/-- A reply is part of the rules, and it neither opens nor leaves a section. -/
theorem isReply_sections {i : Instr} (h : isReply i = true) :
    ruleTask (.run i) = true ∧ sectionsLeftBy (.run i) = 0 ∧ opensSection (.run i) = false := by
  cases i <;> simp_all [isReply, spaceOf, ruleTask, sectionsLeftBy, opensSection, masks, flushes]

theorem leftover_sections {k : Task} (h : leftover k = true) :
    ruleTask k = true ∧ sectionsLeftBy k = 0 ∧ opensSection k = false ∧ k ≠ .goto .reset := by
  cases k with
  | run i =>
    obtain ⟨hr, hl, ho⟩ := isReply_sections h
    exact ⟨hr, hl, ho, nofun⟩
  | goto q =>
    refine ⟨rfl, rfl, rfl, ?_⟩
    rintro ⟨⟩
    cases h
  | _ => cases h

theorem leftover_of_isReplyTask {k : Task} (h : isReplyTask k = true) : leftover k = true := by
  cases k with
  | run i => exact h
  | _ => cases h

/-- Nothing leads back to RESET. -/
theorem not_transition_to_reset (q : SeqState) : (q, SeqState.reset) ∉ transitions := by
  cases q <;> decide

theorem leftover_goto {p q : SeqState} (h : (p, q) ∈ transitions) : leftover (.goto q) = true := by
  have hq : q ≠ .reset := by rintro rfl; exact not_transition_to_reset p h
  simpa [leftover] using hq

theorem Control.Sectioned.extend (h : c.Sectioned n) {ts : List Task} (hts : ∀ k ∈ ts, leftover k = true) (q : SeqState)
    (hd : Header) : Control.Sectioned n { c with seq := q, hdr := hd, todo := ts ++ c.todo } := by
  induction ts with
  | nil => exact { h with }
  | cons k ts ih =>
    obtain ⟨hk, hts⟩ := List.forall_mem_cons.1 hts
    obtain ⟨hr, hl, -, -⟩ := leftover_sections hk
    exact (ih hts).push hr (by rw [hl]; rfl)

end

/-! ### What any task the rules leave does -/

theorem space_of_not_keepsSeq {i : Instr} (h : keepsSeq i = false) : i = .handoff ∨ spaceOf i = .cmd ∨ spaceOf i = .record := by
  cases i <;> simp_all [keepsSeq, spaceOf]

/-- Task `j` opens a section or leaves one exactly where `k` does. -/
structure SameSections (k j : Task) : Prop where
  rule : ruleTask j = true
  leaves : sectionsLeftBy j = sectionsLeftBy k
  opens : opensSection j = opensSection k
  stays : ∀ q, j ≠ .goto q

theorem sameSections_command {i j : Instr} (hi : spaceOf i = .cmd) (hj : isReply j = true) :
    SameSections (.run i) (.run j) := by
  obtain ⟨hr, hl, ho⟩ := isReply_sections hj
  refine ⟨hr, ?_, ?_, nofun⟩
  · rw [hl, sectionsLeftBy_run (by rintro rfl; cases hi)]
  · rw [ho]
    cases i <;> simp_all [spaceOf, opensSection, masks, flushes]

/-- What the sequencer's rules end in is part of the rules, and leaves no section it has not entered. -/
theorem isWork_sections {i : Instr} (h : isWork i = true) : ruleTask (.run i) = true ∧ sectionsLeftBy (.run i) = 0 := by
  unfold isWork at h
  split at h
  · exact ⟨rfl, rfl⟩
  · exact ⟨rfl, rfl⟩
  · obtain ⟨hr, hl, -⟩ := isReply_sections h
    exact ⟨hr, hl⟩

theorem opensSection_run {i : Instr} (h : i ≠ .csLeave) : opensSection (.run i) = masks i := by
  unfold opensSection
  split <;> simp_all

theorem sameSections_record {i j : Instr} (hi : spaceOf i = .record) (hj : isWork j = true) (hm : masks j = masks i) :
    SameSections (.run i) (.run j) := by
  have hni : i ≠ .csLeave := by rintro rfl; cases hi
  have hnj : j ≠ .csLeave := by rintro rfl; cases hj
  obtain ⟨hr, hl⟩ := isWork_sections hj
  exact ⟨hr, hl.trans (sectionsLeftBy_run hni).symm, by rw [opensSection_run hnj, opensSection_run hni, hm], nofun⟩

section
variable {s t : State}

/-- A task the rules leave is a transition, or it has the effect of a task with the same sections that leaves `seq` alone, from
registers in which `seq` has moved elsewhere than to RESET and more replies or transitions are left. -/
theorem runTask_control {k : Task} (hk : ruleTask k = true) (hx : runTask k s = .next t) :
    (∃ q, k = .goto q ∧ t.control = { s.control with seq := q }) ∨
    ∃ j q ts, SameSections k j ∧ (q = s.seq ∨ q ≠ .reset) ∧ (∀ u ∈ ts, leftover u = true) ∧
      Effect j { s.control with seq := q, todo := ts ++ s.todo } t.control := by
  cases hs : taskKeepsSeq k with
  | true =>
    have hstays : ∀ q, k ≠ .goto q := by rintro q rfl; cases hs
    exact .inr ⟨k, s.seq, [], ⟨hk, rfl, rfl, hstays⟩, .inl rfl, nofun, runTask_effect hs hx⟩
  | false =>
    cases k with
    | goto q => rw [← Host.Outcome.next.inj hx]; exact .inl ⟨q, rfl, rfl⟩
    | run i =>
      right
      rcases space_of_not_keepsSeq hs with rfl | hi | hi
      · cases hk
      · have hne : ∀ j, spaceOf j = .op → i ≠ j := fun j hj e => by rw [e, hj] at hi; cases hi
        obtain ⟨q, ts, hq, -, hts, hx' | ⟨j, hj, hx'⟩⟩ := exec_command hi s
        · obtain rfl := Host.Outcome.next.inj (hx'.symm.trans hx)
          exact ⟨.run i, q, ts, ⟨hk, rfl, rfl, nofun⟩, .inr (by rintro rfl; exact not_transition_to_reset _ hq),
            fun u hu => leftover_of_isReplyTask (hts u hu), .done i _ ⟨hne .csEnter rfl, hne .csLeave rfl⟩⟩
        · exact ⟨.run j, q, ts, sameSections_command hi hj, .inr (by rintro rfl; exact not_transition_to_reset _ hq),
            fun u hu => leftover_of_isReplyTask (hts u hu),
            exec_effect (keepsSeq_of_isWork (isWork_of_isReply hj)) (hx'.symm.trans hx)⟩
      · obtain ⟨q, ts, j, hq, hts, hj, hm, hx'⟩ := exec_record hi s
        refine ⟨.run j, s.seq, ts ++ [.goto q], sameSections_record hi hj hm, .inl rfl, ?_, ?_⟩
        · exact List.forall_mem_append.2 ⟨fun u hu => leftover_of_isReplyTask (hts u hu),
            List.forall_mem_singleton.2 (leftover_goto hq)⟩
        · rw [List.append_assoc]
          exact exec_effect (keepsSeq_of_isWork hj) (hx'.symm.trans hx)
    | fetch => cases hk
    | _ => cases hs

/-! ### Balanced sections are kept -/

theorem runTask_sectioned {k : Task} (h : s.control.Sectioned (sectionsLeftBy k)) (hk : ruleTask k = true)
    (hx : runTask k s = .next t) : t.control.Sectioned 0 := by
  rcases runTask_control hk hx with ⟨q, rfl, e⟩ | ⟨j, q, ts, hj, -, hts, he⟩
  · rw [e]; exact { h with }
  · refine he.sectioned ?_ hj.rule
    rw [hj.leaves]
    exact h.extend hts q s.hdr

/-- What the sequencer has prepared opens and leaves no section. -/
theorem Prepared.leftover {s' : State} (hp : Prepared s s') : ∀ k ∈ s'.todo, leftover k = true := by
  obtain ⟨ts, hts, hleft⟩ := hp.left
  have hks : ∀ k ∈ ts, Machine.leftover k = true := fun k hk => leftover_of_isReplyTask (hts k hk)
  rcases hleft with e | ⟨q, e, hq, -⟩ <;> rw [e]
  · exact hks
  · exact List.forall_mem_append.2 ⟨hks, List.forall_mem_singleton.2 (leftover_goto hq)⟩

theorem Prepared.control_eq {s' : State} (hp : Prepared s s') (ht : s.todo = []) :
    s'.control = { s.control with seq := s'.seq, hdr := s'.hdr, todo := s'.todo ++ s.control.todo } := by
  have e : s.control.todo = [] := ht
  rw [e, List.append_nil]
  exact congrArg State.control hp.same

theorem Prepared.sectioned {s' : State} (hp : Prepared s s') (ht : s.todo = []) (h : s.control.Sectioned 0) :
    s'.control.Sectioned 0 := by
  rw [hp.control_eq ht]
  exact h.extend hp.leftover _ _

/-- The control registers right after entry, before the ready byte (70_reset_and_hazards.md rule R302). -/
def Control.entered (c : Control) : Control :=
  { c with active := true, I := true, ivsel := true, todo := [.goto .awaitCmd] }

theorem entry_effect (ht : s.todo = []) (hx : entry s = .next t) :
    Effect (.run .ctlReady) s.control.entered t.control := by
  have he := exec_effect (i := .ctlReady) rfl hx
  simp only [State.control, push, ht] at he
  exact he

theorem handoff_control {b : Bool} (hx : exec .handoff { s with active := b } = .next t) :
    t.control = { s.control with active := b, I := false, ivsel := false, seq := .handedOff, todo := [] } := by
  rw [← Host.Outcome.next.inj hx]
  rfl

/-- Entry leaves no section open, and sets the vector table before interrupts can come. -/
theorem entered_sectioned (h : s.control.Sectioned 0) (ht : s.todo = []) : s.control.entered.Sectioned 0 := by
  have hs : s.control.isave = [] := h.isave_nil ht
  exact {
    tasks := by simp [Control.entered, ruleTask]
    depth := by simp [Control.entered, hs, sectionsLeftBy]
    masked := fun hn => absurd hs hn
    inner := h.inner
    vector := fun _ => rfl }

theorem advance_sectioned (h : s.control.Sectioned 0) (ht : s.todo = []) (hx : advance s = .next t) :
    t.control.Sectioned 0 := by
  have hs : s.control.isave = [] := h.isave_nil ht
  have ha := advance_cases ht
  generalize advance s = o at ha hx
  cases ha with
  | finished => cases hx; exact h
  | handsOff b =>
    rw [handoff_control hx]
    exact { tasks := nofun, depth := by simp [hs], masked := fun _ => rfl, inner := h.inner, vector := by simp [hs] }
  | enters => exact Effect.sectioned (k := .run .ctlReady) (entered_sectioned h ht) rfl (entry_effect ht hx)
  | reads => exact Effect.sectioned (k := .run .recv) h rfl (exec_effect rfl hx)
  | moves s' hp => cases hx; exact hp.sectioned ht h
  | runs i s' hi hp =>
    obtain ⟨hr, hl⟩ := isWork_sections hi
    refine (exec_effect (keepsSeq_of_isWork hi) hx).sectioned ?_ hr
    rw [hl]
    exact hp.sectioned ht h
  | faults => cases hx

theorem sequencerStep_sectioned (h : s.control.Sectioned 0) (hx : sequencerStep s = .next t) :
    t.control.Sectioned 0 := by
  unfold sequencerStep at hx
  split at hx
  · exact advance_sectioned h ‹_› hx
  · rename_i k ts ht
    obtain ⟨hk, hpop⟩ := h.pop ht
    exact runTask_sectioned hpop hk hx

end
end Sys2Proof.Machine
end

section
/-! SUPPORT. Interrupts are masked exactly inside critical sections, and no step is refused (44_command_sequencer.md rule R221,
70_reset_and_hazards.md rules R313, R323). -/

namespace Sys2Proof.Machine

/-! ### The interrupt flag during a session -/

/-- During a session the flag is set exactly when no section is open, and what can open a section has none to be left after
it. -/
structure Control.InSession (c : Control) : Prop where
  active : c.active = true
  saved : c.isave = [] ∨ c.isave = [true] ∨ c.isave = [false, true]
  enabled : c.I = true ↔ c.isave = []
  noReturn : .goto .reset ∉ c.todo
  nested : c.todo.Pairwise (fun t u => opensSection t = true → sectionsLeftBy u = 0)

/-- With no session nothing is open and nothing left to do. -/
structure Control.Outside (c : Control) : Prop where
  active : c.active = false
  I : c.I = false
  isave : c.isave = []
  todo : c.todo = []
  seq : c.seq = .reset ∨ c.seq = .handedOff

/-- While entry is under way only the ready byte and the step to the command loop are left (70_reset_and_hazards.md rule
R302). -/
def Control.Entering (c : Control) : Prop :=
  c.seq = .reset → c.todo = [.goto .awaitCmd] ∨ c.todo = [.run .ctlReady, .goto .awaitCmd]

/-- The masking discipline, by whether a session is active. -/
def Control.Exact (c : Control) : Prop := c.Outside ∨ c.InSession ∧ c.Entering

theorem maskingExact_iff {s : State} : s.MaskingExact ↔ s.control.Exact := by
  constructor
  · intro h
    cases ha : s.active with
    | false =>
      obtain ⟨hI, hs, ht, hq⟩ := h.inactive ha
      exact .inl ⟨ha, hI, hs, ht, hq⟩
    | true => exact .inr ⟨⟨ha, h.saved, h.enabled ha, h.noReturn, h.nested⟩, h.entering ha⟩
  · rintro (h | ⟨h, he⟩)
    · have ha : s.active = false := h.active
      have hs : s.isave = [] := h.isave
      have ht : s.todo = [] := h.todo
      exact ⟨.inl hs, by simp [ha], fun _ => ⟨h.I, hs, ht, h.seq⟩, by simp [ha], by simp [ht], by simp [ht]⟩
    · have ha : s.active = true := h.active
      exact ⟨h.saved, fun _ => h.enabled, by simp [ha], fun _ => he, h.noReturn, h.nested⟩

section
variable {c c' : Control} {n : Nat}

theorem Control.InSession.push (h : c.InSession) {k : Task} (hk : k ≠ .goto .reset)
    (hq : opensSection k = true → ∀ u ∈ c.todo, sectionsLeftBy u = 0) : (c.push k).InSession :=
  { h with
    noReturn := fun hm => (List.mem_cons.1 hm).elim (fun e => hk e.symm) h.noReturn
    nested := List.pairwise_cons.2 ⟨fun u hu ho => hq ho u hu, h.nested⟩ }

/-- A section is entered with at most one open. -/
theorem Control.InSession.enter (h : c.InSession) (hl : c.isave.length ≤ 1) : c.enter.InSession := by
  have hsaved : c.enter.isave = [] ∨ c.enter.isave = [true] ∨ c.enter.isave = [false, true] := by
    rcases h.saved with hs | hs | hs
    · exact .inr (.inl (by simp [Control.enter, hs, h.enabled.2 hs]))
    · have hI : c.I = false := by simpa [hs] using h.enabled
      exact .inr (.inr (by simp [Control.enter, hs, hI]))
    · simp [hs] at hl
  exact { h with saved := hsaved, enabled := by simp [Control.enter] }

theorem Control.InSession.leave (h : c.InSession) : c.leave.InSession := by
  have hx : (c.leave.isave = [] ∨ c.leave.isave = [true] ∨ c.leave.isave = [false, true]) ∧
      (c.leave.I = true ↔ c.leave.isave = []) := by
    rcases h.saved with hs | hs | hs
    · simpa [Control.leave, hs] using h.enabled
    · simp [Control.leave, hs]
    · simp [Control.leave, hs]
  exact { h with saved := hx.1, enabled := hx.2 }

theorem Control.InSession.pop (h : c.InSession) {k : Task} {ts : List Task} (ht : c.todo = k :: ts) :
    k ≠ .goto .reset ∧ (opensSection k = true → ∀ u ∈ ts, sectionsLeftBy u = 0) ∧
      Control.InSession { c with todo := ts } := by
  have hn := h.noReturn
  have hp := h.nested
  rw [ht] at hn hp
  obtain ⟨hk, hp⟩ := List.pairwise_cons.1 hp
  exact ⟨fun e => hn (e ▸ List.mem_cons_self), fun ho u hu => hk u hu ho,
    { h with noReturn := fun hm => hn (List.mem_cons_of_mem _ hm), nested := hp }⟩

theorem Control.InSession.extend (h : c.InSession) {ts : List Task} (hts : ∀ k ∈ ts, leftover k = true) (q : SeqState)
    (hd : Header) : Control.InSession { c with seq := q, hdr := hd, todo := ts ++ c.todo } := by
  induction ts with
  | nil => exact { h with }
  | cons k ts ih =>
    obtain ⟨hk, hts⟩ := List.forall_mem_cons.1 hts
    obtain ⟨-, -, ho, hr⟩ := leftover_sections hk
    exact (ih hts).push hr (by simp [ho])

theorem leftover_quiet {ts : List Task} (hts : ∀ k ∈ ts, leftover k = true) : ∀ u ∈ ts, sectionsLeftBy u = 0 := fun u hu =>
  (leftover_sections (hts u hu)).2.1

/-- Where no task left leaves a section, the open ones are those in hand. -/
theorem Control.Sectioned.length_of_quiet (h : c.Sectioned n) (hq : ∀ u ∈ c.todo, sectionsLeftBy u = 0) :
    c.isave.length = n := by
  have hsum : (c.todo.map sectionsLeftBy).sum = 0 := List.sum_eq_zero (by simpa using hq)
  rw [h.depth, hsum, Nat.add_zero]

theorem isFlushPart.notOpening {f : Task} (h : isFlushPart f) : f ≠ .goto .reset ∧ opensSection f = false := by
  rcases h with rfl | rfl <;> exact ⟨nofun, rfl⟩

/-- A FLUSH begins in a section of its own, with at most one open around it (43_flash_programmer.md rule R201). -/
theorem Control.InSession.flush (h : c.InSession) (hl : c.isave.length ≤ 1) {f : Task} (hf : isFlushPart f) :
    (c.enter.push f).InSession :=
  (h.enter hl).push hf.notOpening.1 (by simp [hf.notOpening.2])

/-- A task that leaves `seq` alone keeps the interrupt flag exact. -/
theorem Effect.inSession {k : Task} (hs : c.Sectioned (sectionsLeftBy k)) (h : c.InSession) (hk : k ≠ .goto .reset)
    (hq : opensSection k = true → ∀ u ∈ c.todo, sectionsLeftBy u = 0) (e : Effect k c c') : c'.InSession := by
  have hl : opensSection k = true → c.isave.length = sectionsLeftBy k := fun ho => hs.length_of_quiet (hq ho)
  cases e with
  | done => exact h
  | waits => exact h.push hk hq
  | recvHeld =>
    have hn := hl rfl
    exact ((h.enter (by rw [hn]; decide)).push (k := .run .csLeave) nofun nofun).push (k := .run .ctlXon) nofun nofun
  | csEnter =>
    have hn := hl rfl
    exact h.enter (by rw [hn]; decide)
  | leaves => exact h.leave
  | flush f hf =>
    have hn := hl rfl
    exact h.flush (by rw [hn]; decide) hf
  | flushPending f hf =>
    have hn : c.isave.length = 0 := hl rfl
    exact ((h.enter (by omega)).push (k := .retire) nofun nofun).flush (by simp [Control.push, Control.enter, hn]) hf
  | stage a a' p p' f hf =>
    have hn : c.isave.length = 0 := hl rfl
    exact ((h.enter (by omega)).push (k := .stageRest a' p') nofun fun _ => hq rfl).flush (by simp [Control.push, Control.enter, hn]) hf
  | stageRest a a' p p' f hf =>
    have hn : c.isave.length = 1 := hl rfl
    exact (h.push (k := .stageRest a' p') nofun fun _ => hq rfl).flush (by simp [Control.push, hn]) hf
  | erased => exact h.push nofun nofun
  | programmed => exact h.push nofun nofun

theorem Effect.seq_eq {k : Task} (e : Effect k c c') : c'.seq = c.seq := by cases e <;> rfl

/-- The ready byte of entry is sent, or waits. -/
theorem Effect.entering_ready (ht : c.todo = [.goto .awaitCmd]) (e : Effect (.run .ctlReady) c c') : c'.Entering := by
  intro _
  cases e with
  | done => exact .inl ht
  | waits => exact .inr (congrArg (_ :: ·) ht)
  | leaves _ _ hl => cases hl

theorem Control.entered_inSession (hs : c.isave = []) : c.entered.InSession where
  active := rfl
  saved := .inl hs
  enabled := by simp [Control.entered, hs]
  noReturn := by simp [Control.entered]
  nested := by simp [Control.entered]

theorem Control.Exact.inSession (h : c.Exact) (hu : c.seq ≠ .reset ∧ c.seq ≠ .handedOff) : c.InSession := by
  rcases h with ho | ⟨h, -⟩
  · rcases ho.seq with hq | hq
    · exact absurd hq hu.1
    · exact absurd hq hu.2
  · exact h

/-- Before entry no session is active. -/
theorem Control.Exact.outside (h : c.Exact) (ht : c.todo = []) (hq : c.seq = .reset) : c.Outside := by
  rcases h with ho | ⟨-, he⟩
  · exact ho
  · rcases he hq with e | e <;> rw [ht] at e <;> cases e

end

section
variable {s t : State}

/-- A task the rules leave keeps the interrupt flag exact. -/
theorem runTask_inSession {k : Task} (hs : s.control.Sectioned (sectionsLeftBy k)) (h : s.control.InSession)
    (hr : ruleTask k = true) (hk : k ≠ .goto .reset)
    (hq : opensSection k = true → ∀ u ∈ s.todo, sectionsLeftBy u = 0) (hx : runTask k s = .next t) :
    t.control.InSession := by
  rcases runTask_control hr hx with ⟨q, rfl, e⟩ | ⟨j, q, ts, hj, -, hts, he⟩
  · rw [e]; exact { h with }
  · refine he.inSession ?_ (h.extend hts q s.hdr) (hj.stays _) fun ho => ?_
    · rw [hj.leaves]; exact hs.extend hts q s.hdr
    · rw [hj.opens] at ho
      exact List.forall_mem_append.2 ⟨leftover_quiet hts, hq ho⟩

/-- Entry goes on to the command loop, and nothing leads back to RESET. -/
theorem runTask_entering {k : Task} {ts : List Task} (h : s.control.Entering) (hr : ruleTask k = true)
    (hk : k ≠ .goto .reset) (ht : s.todo = k :: ts) (hx : runTask k { s with todo := ts } = .next t) :
    t.control.Entering := by
  by_cases hq : s.seq = .reset
  · have htodo : s.todo = [.goto .awaitCmd] ∨ s.todo = [.run .ctlReady, .goto .awaitCmd] := h hq
    rw [ht] at htodo
    rcases htodo with e | e
    · obtain ⟨rfl, rfl⟩ := List.cons.inj e
      rw [← Host.Outcome.next.inj hx]
      exact nofun
    · obtain ⟨rfl, rfl⟩ := List.cons.inj e
      exact (exec_effect (i := .ctlReady) rfl hx).entering_ready rfl
  · intro hreset
    rcases runTask_control hr hx with ⟨q, rfl, e⟩ | ⟨j, q, ts', -, hqs, -, he⟩
    · rw [e] at hreset
      have hq : q = .reset := hreset
      exact absurd (congrArg Task.goto hq) hk
    · have hqr : q = .reset := he.seq_eq.symm.trans hreset
      rcases hqs with e | hne
      · exact absurd (e.symm.trans hqr) hq
      · exact absurd hqr hne

theorem Prepared.seq_ne_reset {s' : State} (hp : Prepared s s') : s'.seq ≠ .reset := by
  intro e
  rcases hp.seq with hq | hq
  · exact hp.underWay.1 (hq.symm.trans e)
  · exact not_transition_to_reset _ (e ▸ hq)

theorem Prepared.inSession {s' : State} (hp : Prepared s s') (ht : s.todo = []) (h : s.control.Exact) :
    s'.control.InSession := by
  rw [hp.control_eq ht]
  exact (h.inSession hp.underWay).extend hp.leftover _ _

theorem advance_exact (hs : s.control.Sectioned 0) (h : s.control.Exact) (ht : s.todo = []) (hx : advance s = .next t) :
    t.control.Exact := by
  have hsave : s.control.isave = [] := hs.isave_nil ht
  have ha := advance_cases ht
  generalize advance s = o at ha hx
  cases ha with
  | finished => cases hx; exact h
  | handsOff b hb =>
    have hb : b = false := by
      rcases hb with ⟨hq, rfl⟩ | ⟨-, rfl⟩ | ⟨-, rfl⟩
      · exact (h.outside ht hq).active
      · rfl
      · rfl
    rw [handoff_control hx]
    exact .inl ⟨hb, rfl, hsave, rfl, .inr rfl⟩
  | enters hq =>
    have he := entry_effect ht hx
    have hin := Control.entered_inSession hsave
    exact .inr ⟨he.inSession (k := .run .ctlReady) (entered_sectioned hs ht) hin nofun nofun, he.entering_ready rfl⟩
  | reads hu =>
    have he : Effect (.run .recv) s.control t.control := exec_effect rfl hx
    have hquiet : ∀ u ∈ s.control.todo, sectionsLeftBy u = 0 := by
      have e : s.control.todo = [] := ht
      simp [e]
    exact .inr ⟨he.inSession (k := .run .recv) hs (h.inSession hu) nofun fun _ => hquiet,
      fun hq => absurd (he.seq_eq.symm.trans hq) hu.1⟩
  | moves s' hp => cases hx; exact .inr ⟨hp.inSession ht h, fun hq => absurd hq hp.seq_ne_reset⟩
  | runs i s' hi hp =>
    have he := exec_effect (keepsSeq_of_isWork hi) hx
    have hsec : s'.control.Sectioned (sectionsLeftBy (.run i)) := by
      rw [(isWork_sections hi).2]; exact hp.sectioned ht hs
    exact .inr ⟨he.inSession hsec (hp.inSession ht h) nofun fun _ => leftover_quiet hp.leftover,
      fun hq => absurd (he.seq_eq.symm.trans hq) hp.seq_ne_reset⟩
  | faults => cases hx

theorem sequencerStep_exact (hs : s.control.Sectioned 0) (h : s.control.Exact) (hx : sequencerStep s = .next t) :
    t.control.Exact := by
  unfold sequencerStep at hx
  split at hx
  · exact advance_exact hs h ‹_› hx
  · rename_i k ts ht
    rcases h with ho | ⟨h, he⟩
    · rw [show s.todo = [] from ho.todo] at ht; cases ht
    · obtain ⟨hr, hspop⟩ := hs.pop ht
      obtain ⟨hk, hq, hpop⟩ := h.pop ht
      exact .inr ⟨runTask_inSession (s := { s with todo := ts }) hspop hpop hr hk hq hx,
        runTask_entering he hr hk ht hx⟩

/-- RECV, which can open a section, is left only with none open: interrupts are enabled. -/
theorem enabled_of_recv_left {ts : List Task} (hs : s.control.Sectioned 0) (h : s.control.Exact)
    (ht : s.todo = .run .recv :: ts) : s.I = true := by
  rcases h with ho | ⟨h, -⟩
  · rw [show s.todo = [] from ho.todo] at ht; cases ht
  · obtain ⟨-, hspop⟩ := hs.pop ht
    obtain ⟨-, hq, -⟩ := h.pop ht
    exact h.enabled.2 (List.length_eq_zero_iff.1 (hspop.length_of_quiet (hq rfl)))

/-! ### No step is refused -/

theorem flushErase_not_refused (r : Refusal) : flushErase s ≠ .refused r := by
  unfold flushErase
  split
  · exact nofun
  · split <;> exact nofun

theorem flushProgram_not_refused (r : Refusal) : flushProgram s ≠ .refused r := by
  unfold flushProgram
  split
  · exact nofun
  · split
    · exact nofun
    · split <;> exact nofun

theorem flushEnable_not_refused (r : Refusal) : flushEnable s ≠ .refused r := by
  unfold flushEnable
  split
  · exact nofun
  · split <;> exact nofun

theorem stageLoop_not_refused (p : List Byte) (a : Word16) (s : State) (r : Refusal) : stageLoop a p s ≠ .refused r := by
  induction p generalizing a s with
  | nil => exact nofun
  | cons b bs ih =>
    unfold stageLoop
    split
    · exact ih _ _
    · split
      · exact flushErase_not_refused r
      · split
        · exact nofun
        · exact ih _ _

theorem execFlushPending_not_refused (r : Refusal) : execFlushPending s ≠ .refused r := by
  unfold execFlushPending
  split
  · exact flushErase_not_refused r
  · exact nofun

/-- The one instruction that can be refused is CSLEAVE with no section open (43_flash_programmer.md rule R207). -/
theorem exec_refused {i : Instr} {r : Refusal} (hx : exec i s = .refused r) : i = .csLeave ∧ s.isave = [] := by
  cases i with
  | recv => simp only [exec, execRecv] at hx; split at hx <;> cases hx
  | rxisr => simp only [exec, execRxisr] at hx; split at hx <;> cases hx
  | stage | recData => exact absurd hx (stageLoop_not_refused _ _ _ r)
  | flushPending | recEof => exact absurd hx (execFlushPending_not_refused r)
  | flush => exact absurd hx (flushErase_not_refused r)
  | csLeave =>
    simp only [exec, execCsLeave] at hx
    split at hx
    · exact ⟨rfl, ‹_›⟩
    · cases hx
  | _ => cases hx

theorem runTask_not_refused {k : Task} (h : s.control.Sectioned (sectionsLeftBy k)) (hk : ruleTask k = true)
    (r : Refusal) : runTask k s ≠ .refused r := by
  intro hx
  cases k with
  | run i =>
    obtain ⟨rfl, hs⟩ := exec_refused hx
    have hd : s.isave.length = 1 + (s.todo.map sectionsLeftBy).sum := h.depth
    rw [hs, List.length_nil] at hd
    omega
  | fetch => cases hk
  | goto | retire => cases hx
  | flushErase => exact flushErase_not_refused r hx
  | flushProgram => exact flushProgram_not_refused r hx
  | flushEnable => exact flushEnable_not_refused r hx
  | stageRest a p => exact stageLoop_not_refused _ _ _ r hx

theorem advance_not_refused (ht : s.todo = []) (r : Refusal) : advance s ≠ .refused r := by
  intro hx
  have ha := advance_cases ht
  generalize advance s = o at ha hx
  cases ha with
  | finished | moves | faults => cases hx
  | handsOff | enters | reads => exact absurd (exec_refused hx).1 nofun
  | runs i s' hi =>
    rw [(exec_refused hx).1] at hi
    cases hi

theorem sequencerStep_not_refused (h : s.control.Sectioned 0) (r : Refusal) : sequencerStep s ≠ .refused r := by
  unfold sequencerStep
  split
  · exact advance_not_refused ‹_› r
  · rename_i k ts ht
    obtain ⟨hk, hpop⟩ := h.pop ht
    exact runTask_not_refused hpop hk r

/-- The interrupt never reaches the application's vector table (10_state.md rule R27). -/
theorem receiveStep_not_refused (hv : s.VectorDisciplined) (r : Refusal) : receiveStep s ≠ .refused r := by
  unfold receiveStep
  split
  · exact nofun
  · split
    · rename_i he
      rw [if_pos (hv (.inl ((receiveEnabled_iff s).1 he).1))]
      exact fun hx => absurd (exec_refused hx).1 nofun
    · exact nofun

theorem agentStep_not_refused (h : s.control.Sectioned 0) (e : Event) (r : Refusal) : agentStep e s ≠ .refused r := by
  cases e with
  | sequencer =>
    simp only [agentStep]
    split
    · exact nofun
    · exact sequencerStep_not_refused h r
  | receive => exact receiveStep_not_refused (sectioned_iff.1 h).2 r
  | transmitter | flashEngine | peer | peerTakes => exact nofun

end

/-- Settles O53: the other agents leave the control registers alone, and the sequencer's step keeps their discipline. -/
theorem sectionsAreBalanced : Obligations.SectionsAreBalanced := by
  intro s hc hb hv
  have hs : s.control.Sectioned 0 := sectioned_iff.2 ⟨hb, hv⟩
  have hs' : (afterChoice s).control.Sectioned 0 := by rwa [control_afterChoice]
  refine ⟨fun r => ?_, fun t hx => ?_, fun hm => ⟨?_, fun ts ht => ?_⟩⟩
  · rw [step_of_admissible hc]
    exact agentStep_not_refused hs' _ r
  · obtain ⟨-, hx⟩ := step_next hx
    have ht : t.control.Sectioned 0 ∧ (s.control.Exact → t.control.Exact) := by
      rcases agentStep_control hx with e | ⟨-, hq⟩
      · rw [e, control_afterChoice]; exact ⟨hs, id⟩
      · refine ⟨sequencerStep_sectioned hs' hq, fun hm => sequencerStep_exact hs' ?_ hq⟩
        rwa [control_afterChoice]
    obtain ⟨hb', hv'⟩ := sectioned_iff.1 ht.1
    exact ⟨hb', hv', fun hm => maskingExact_iff.2 (ht.2 (maskingExact_iff.1 hm))⟩
  · rcases hm.saved with e | e | e <;> rw [e] <;> decide
  · exact enabled_of_recv_left hs (maskingExact_iff.1 hm) ht

end Sys2Proof.Machine
end

section
/-! SUPPORT. Program memory changes only where FLUSH issues a page operation (10_state.md rule R40; 20_memory.md rules R72, R74,
R75; 43_flash_programmer.md rules R201 to R203). -/

namespace Sys2Proof.Machine

/-- From `s` to `t` a page operation of FLUSH was issued on the staged page: on a free port, masked, below the boundary, with the
rest of FLUSH left to be done. -/
structure PageWritten (s t : State) : Prop where
  free : s.spmBusy = false
  busy : t.spmBusy = true
  disabled : t.rwwEnabled = false
  masked : t.I = false
  left : ∃ ts, t.todo = .flushProgram :: ts ∨ t.todo = .flushEnable :: ts
  below : t.pageStart.toNat < s.cfg.bootStart.toNat
  page : ∃ bs, bs.length = s.cfg.pageSize ∧ t.flash = Memory.writeBytes s.flash t.pageStart.toNat bs

/-- Program memory stays, or FLUSH writes the staged page. -/
def FlashStaysOrFlushed (s t : State) : Prop := t.flash = s.flash ∨ PageWritten s t

section
variable {s s' t : State}

/-- What came before the page operation changed neither parameters, program memory nor the port. -/
theorem FlashStaysOrFlushed.of_unchanged (h : FlashStaysOrFlushed s' t) (hc : s'.cfg = s.cfg) (hf : s'.flash = s.flash)
    (hb : s'.spmBusy = s.spmBusy) : FlashStaysOrFlushed s t := by
  rcases h with e | h
  · exact .inl (e.trans hf)
  · exact .inr { h with free := hb ▸ h.free, below := hc ▸ h.below, page := hc ▸ hf ▸ h.page }

theorem flushErase_flash (hI : s.I = false) (hx : flushErase s = .next t) : FlashStaysOrFlushed s t := by
  rcases flushErase_next hx with ⟨-, rfl⟩ | ⟨u, hu, rfl⟩
  · exact .inl rfl
  · obtain ⟨hfree, -, hbelow, rfl⟩ := flashErase_ok hu
    exact .inr {
      free := hfree
      busy := rfl
      disabled := rfl
      masked := hI
      left := ⟨s.todo, .inl rfl⟩
      below := hbelow
      page := ⟨_, List.length_replicate, rfl⟩ }

theorem flushProgram_flash (hI : s.I = false) (hx : flushProgram s = .next t) : FlashStaysOrFlushed s t := by
  rcases flushProgram_next hx with ⟨-, rfl⟩ | ⟨u, v, hfree, hu, hv, rfl⟩
  · exact .inl rfl
  · obtain ⟨f, rfl, -⟩ := fillWords_next hu
    obtain ⟨-, -, hbelow, rfl⟩ := flashProgram_ok hv
    exact .inr {
      free := hfree
      busy := rfl
      disabled := rfl
      masked := hI
      left := ⟨s.todo, .inr rfl⟩
      below := hbelow
      page := ⟨_, by simp, rfl⟩ }

theorem execFlush_flash (hx : execFlush s = .next t) : FlashStaysOrFlushed s t :=
  (flushErase_flash rfl hx).of_unchanged rfl rfl rfl

/-- STAGE's loop writes the staging buffer alone, up to the flush that interrupts it. -/
theorem stageLoop_flash {p : List Byte} {a : Word16} (hx : stageLoop a p s = .next t) : FlashStaysOrFlushed s t := by
  induction p generalizing a s with
  | nil => rw [← Host.Outcome.next.inj hx]; exact .inl rfl
  | cons b bs ih =>
    rcases stageLoop_cons hx with ⟨-, hx⟩ | ⟨-, -, hx⟩ | ⟨-, -, u, hu, hx⟩
    · exact (ih hx).of_unchanged rfl rfl rfl
    · exact (execFlush_flash hx).of_unchanged rfl rfl rfl
    · obtain ⟨-, -, rfl⟩ := anchor_ok hu
      exact (ih hx).of_unchanged rfl rfl rfl

theorem execFlushPending_flash (hx : execFlushPending s = .next t) : FlashStaysOrFlushed s t := by
  unfold execFlushPending at hx
  split at hx
  · exact (execFlush_flash hx).of_unchanged rfl rfl rfl
  · rw [← Host.Outcome.next.inj hx]; exact .inl rfl

theorem exec_flash {i : Instr} (hx : exec i s = .next t) : FlashStaysOrFlushed s t := by
  cases hi : flushes i with
  | false => exact .inl ((exec_frame hx).flashing hi).1
  | true =>
    cases i with
    | stage | recData => exact (stageLoop_flash hx).of_unchanged rfl rfl rfl
    | flushPending => exact execFlushPending_flash hx
    | recEof => exact (execFlushPending_flash hx).of_unchanged rfl rfl rfl
    | flush => exact execFlush_flash hx
    | _ => cases hi

/-- A task that goes on with a FLUSH is run in its section. -/
theorem runTask_flash {k : Task} (hI : sectionsLeftBy k = 1 → s.I = false) (hx : runTask k s = .next t) :
    FlashStaysOrFlushed s t := by
  cases k with
  | run i => exact exec_flash hx
  | fetch sp bs =>
    simp only [runTask, runEncoded] at hx
    split at hx
    · exact exec_flash hx
    · cases hx
  | goto | retire => rw [← Host.Outcome.next.inj hx]; exact .inl rfl
  | flushErase => exact flushErase_flash (hI rfl) hx
  | flushProgram => exact flushProgram_flash (hI rfl) hx
  | flushEnable => rcases flushEnable_next hx with ⟨-, rfl⟩ | ⟨-, rfl⟩ <;> exact .inl rfl
  | stageRest a p => exact (stageLoop_flash hx).of_unchanged rfl rfl rfl

theorem advance_flash (ht : s.todo = []) (hx : advance s = .next t) : FlashStaysOrFlushed s t := by
  have ha := advance_cases ht
  generalize advance s = o at ha hx
  cases ha with
  | finished => cases hx; exact .inl rfl
  | handsOff | enters => exact (exec_flash hx).of_unchanged rfl rfl rfl
  | reads => exact exec_flash hx
  | moves s' hp => cases hx; exact .inl hp.flash_eq
  | runs i s' _ hp =>
    exact (exec_flash hx).of_unchanged hp.cfg_eq hp.flash_eq hp.spmBusy_eq
  | faults => cases hx

/-- A task that leaves a section is left with interrupts masked (43_flash_programmer.md rule R206). -/
theorem State.SectionsBalanced.masked_of_leaves (h : s.SectionsBalanced) {k : Task} {ts : List Task}
    (ht : s.todo = k :: ts) (hk : sectionsLeftBy k = 1) : s.I = false := by
  refine h.masked fun hs => ?_
  have hdepth := h.depth
  rw [ht, hs, List.map_cons, List.sum_cons, hk, List.length_nil] at hdepth
  omega

theorem sequencerStep_flash (h : s.SectionsBalanced) (hx : sequencerStep s = .next t) : FlashStaysOrFlushed s t := by
  unfold sequencerStep at hx
  split at hx
  · exact advance_flash ‹_› hx
  · rename_i k ts ht
    exact (runTask_flash (s := { s with todo := ts }) (h.masked_of_leaves ht) hx).of_unchanged rfl rfl rfl

/-- Every agent but the sequencer leaves program memory alone. -/
theorem agentStep_flash {e : Event} (h : s.SectionsBalanced) (hx : agentStep e s = .next t) :
    t.flash = s.flash ∨ e = .sequencer ∧ PageWritten s t := by
  have hr := Frame.refl .rxisr s
  rcases agentStep_next hx with
    ⟨-, -, rfl⟩ | ⟨he, -, hq⟩ | ⟨-, -, rfl⟩ | ⟨-, -, -, -, rfl⟩ | ⟨-, -, -, rfl⟩ | ⟨-, rfl⟩ | ⟨-, rfl⟩ | ⟨b, -, rfl⟩ |
    ⟨-, rfl⟩
  · exact .inl rfl
  · exact (sequencerStep_flash h hq).imp_right fun hw => ⟨he, hw⟩
  · exact .inl (hr.returnFromInterrupt.flashing rfl).1
  · exact .inl (hr.takeInterrupt.returnFromInterrupt.flashing rfl).1
  · exact .inl rfl
  · exact .inl rfl
  · exact .inl rfl
  · rcases peerStep_cases b s with ⟨-, e⟩ | ⟨-, e⟩ <;> rw [e] <;> exact .inl rfl
  · exact .inl rfl

theorem step_flash (h : s.SectionsBalanced) (hx : step s = .next t) :
    t.flash = s.flash ∨ nextEvent s = .sequencer ∧ PageWritten s t := by
  obtain ⟨es, n, e⟩ := afterChoice_eq s
  obtain ⟨-, hx⟩ := step_next hx
  rw [e] at hx
  exact (agentStep_flash (s := { s with script := es, tick := n }) { h with } hx).imp_right
    fun ⟨he, hw⟩ => ⟨he, { hw with }⟩

/-- The page operation touches the staged page alone. -/
theorem PageWritten.read_outside (h : PageWritten s t) (hwf : Memory.wf s.flash) {x : Nat}
    (hx : x < t.pageStart.toNat ∨ t.pageStart.toNat + s.cfg.pageSize ≤ x) :
    Memory.read t.flash x = Memory.read s.flash x := by
  obtain ⟨bs, hl, e⟩ := h.page
  rw [e, Memory.read_writeBytes hwf, if_neg (by omega)]

/-- The staged page ends at or below the boundary, because both are aligned (20_memory.md rule R72). -/
theorem PageWritten.page_below_boundary (h : PageWritten s t) (hc : s.cfg.Admissible)
    (ha : t.pageStart.toNat % s.cfg.pageSize = 0) : t.pageStart.toNat + s.cfg.pageSize ≤ s.cfg.bootStart.toNat := by
  obtain ⟨-, -, -, -, -, -, -, -, -, -, hboot, -⟩ := hc
  exact page_below ha hboot h.below

end

/-- Settles O51: a step that changes program memory is FLUSH's page operation, which writes one aligned page. -/
theorem flashChangesOnlyInFlush : Obligations.FlashChangesOnlyInFlush := by
  intro s t hi hb hx
  rcases step_flash hb hx with e | ⟨he, hw⟩
  · exact ⟨fun _ _ => by rw [e], fun _ _ => by rw [e], fun hne => absurd e hne⟩
  · have haligned : t.pageStart.toNat % s.cfg.pageSize = 0 := by
      rw [← (step_extendsWires hx).cfg]
      exact (invKept s t hi hx).pageStart_aligned
    have hend := hw.page_below_boundary hi.admissible haligned
    refine ⟨fun x hx => hw.read_outside hi.flash_wf (.inr (Nat.le_trans hend hx)), fun x => hw.read_outside hi.flash_wf,
      fun _ => ⟨he, hw.masked, hw.free, hw.busy, hw.disabled, hw.left⟩⟩

end Sys2Proof.Machine
end

section
/-! SUPPORT. Reset (10_state.md rule R44): the values it gives, and that every launch state meets the invariants. -/

namespace Sys2Proof.Machine

/-- Settles O47: each value is the one State.resetWith writes. -/
theorem resetValues : Obligations.ResetValues := by
  rintro c flash s t rfl
  exact ⟨rfl, rfl, rfl, rfl, rfl, rfl, rfl, rfl, rfl, rfl, rfl, rfl, rfl, rfl, rfl, rfl, rfl, rfl, rfl, rfl,
    Config.t0, [], rfl⟩

section
variable {c : Config} {flash : Memory}

/-- At launch the ring is empty, nothing is staged, and every buffer has its length. -/
theorem resetWith_inv (hc : c.Admissible) (hwf : Memory.wf flash) (hin : ∀ x ∈ flash, x.1 < c.flashSize) :
    (State.resetWith c flash).Inv := by
  obtain ⟨-, -, hcap, -⟩ := id hc
  exact {
    admissible := hc
    rxbuf_length := List.length_replicate
    head_lt := hcap
    tail_lt := hcap
    free_le := Nat.le_refl _
    ring := by simp [State.resetWith]
    rxHw_length := Nat.zero_le _
    pagebuf_length := List.length_replicate
    pageStart_aligned := Nat.zero_mod _
    fill_length := List.length_replicate
    staged_inside := nofun
    flash_wf := hwf
    flash_inside := hin }

theorem resetWith_sectionsBalanced : (State.resetWith c flash).SectionsBalanced where
  tasks := nofun
  depth := rfl
  masked h := absurd rfl h
  inner := nofun

theorem resetWith_vectorDisciplined : (State.resetWith c flash).VectorDisciplined := by
  simp [State.VectorDisciplined, State.resetWith]

theorem resetWith_flowAgrees : (State.resetWith c flash).FlowAgrees := by
  simp [State.FlowAgrees, State.resetWith]

theorem resetWith_entryOnce : (State.resetWith c flash).EntryOnce where
  before _ _ := ⟨rfl, rfl, rfl⟩
  during _ := .inl rfl
  after := nofun

theorem resetWith_seqDisciplined : (State.resetWith c flash).SeqDisciplined where
  tasks := .inl nofun
  active := .inr (.inr ⟨rfl, nofun⟩)
  decoded h := by simp [State.resetWith] at h

theorem resetWith_maskingExact : (State.resetWith c flash).MaskingExact where
  saved := .inl rfl
  enabled := nofun
  inactive _ := ⟨rfl, rfl, rfl, .inl rfl⟩
  entering := nofun
  noReturn := nofun
  nested := .nil

end

/-- The spec's test configuration T0 meets the constraints on parameters (00_scope.md rule R9). -/
theorem t0_admissible : Config.t0.Admissible := by decide

/-- Settles O45: State.reset is the launch state of T0 with nothing listed in program memory. -/
theorem invAtReset : Obligations.InvAtReset := resetWith_inv t0_admissible Memory.wf_nil nofun

/-- Settles O46, invariant by invariant. -/
theorem launchMeetsTheInvariants : Obligations.LaunchMeetsTheInvariants := fun _ _ hc hwf hin =>
  ⟨resetWith_inv hc hwf hin, resetWith_sectionsBalanced, resetWith_vectorDisciplined, nofun, resetWith_flowAgrees,
    resetWith_entryOnce, fun _ => .inl ⟨rfl, rfl, rfl, rfl, rfl, rfl⟩, resetWith_seqDisciplined, resetWith_maskingExact⟩

end Sys2Proof.Machine
end

section
/-! SUPPORT. Which faults a step can end in (20_memory.md rules R74 to R76, 43_flash_programmer.md rules R204, R208): the
read-while-write section is disabled only between FLUSH's erase and its re-enable, and every primitive waits for a free port. -/

namespace Sys2Proof.Machine

/-- The answer is a state in which the section is disabled only inside FLUSH, or a fault on an address, or a refusal (of which
the discipline says nothing). -/
def RwwSafe : Host.Outcome State Fault Refusal → Prop
  | .next t => t.RwwDisciplined
  | .fault f => f = .flashAddressOutOfRange ∨ f = .flashWriteToBootSection
  | .refused _ => True

section
variable {s t : State}

theorem State.RwwDisciplined.of_enabled (hr : s.rwwEnabled = true) : s.RwwDisciplined := fun hd => by
  rw [hr] at hd; cases hd

/-- What leaves the control registers and the section's flag alone keeps the discipline. -/
theorem State.RwwDisciplined.of_unchanged (h : s.RwwDisciplined) (hc : t.control = s.control)
    (hr : t.rwwEnabled = s.rwwEnabled) : t.RwwDisciplined := by
  have htodo : t.todo = s.todo := congrArg Control.todo hc
  rw [State.RwwDisciplined, hr, htodo]
  exact h

/-! ### The faults of the memory operations -/

theorem flashErase_error {a : Word16} {f : Fault} (h : flashErase a s = .error f) : pageCheck a s = .error f := by
  unfold flashErase at h
  split at h
  · rename_i e
    rw [e, Except.error.inj h]
  · cases h

theorem flashProgram_error {a : Word16} {f : Fault} (h : flashProgram a s = .error f) : pageCheck a s = .error f := by
  unfold flashProgram at h
  split at h
  · rename_i e
    rw [e, Except.error.inj h]
  · cases h

/-- A read of program memory with the section readable faults on an address alone (20_memory.md rules R74, R76). -/
theorem memRead_error_of_enabled {a : Word16} {n : Nat} {f : Fault} (hr : s.rwwEnabled = true)
    (h : memRead a n s = .error f) : f = .flashAddressOutOfRange := by
  rcases memRead_error h with ⟨-, hd⟩ | hf
  · rw [hr] at hd; cases hd
  · exact hf

theorem anchor_error {a : Word16} {f : Fault} (hr : s.rwwEnabled = true) (h : anchor a s = .error f) :
    f = .flashAddressOutOfRange := by
  unfold anchor at h
  split at h
  · rename_i e
    exact Except.error.inj h ▸ memRead_error_of_enabled hr e
  · cases h

/-! ### The parts of FLUSH -/

/-- FLUSH's erase waits for the port, and leaves FLUSH's next part to be done first (43_flash_programmer.md rule R201). -/
theorem flushErase_rwwSafe (hr : s.rwwEnabled = true) : RwwSafe (flushErase s) := by
  unfold flushErase
  split
  · exact .of_enabled hr
  · rename_i hb
    split
    · exact pageCheck_error (by simpa using hb) (flashErase_error ‹_›)
    · exact fun _ => ⟨_, .inl rfl⟩

/-- FLUSH's fill and program wait for the port, and leave FLUSH's last part to be done first. -/
theorem flushProgram_rwwSafe (s : State) : RwwSafe (flushProgram s) := by
  unfold flushProgram
  split
  · exact fun _ => ⟨_, .inl rfl⟩
  · rename_i hb
    have hfree : s.spmBusy = false := by simpa using hb
    obtain ⟨w, hw, -⟩ := fillWords_ok (s.cfg.pageSize / 2) 0 hfree
    rw [hw]
    dsimp only
    split
    · exact pageCheck_error (s := { s with fill := w }) hfree (flashProgram_error ‹_›)
    · exact fun _ => ⟨_, .inr rfl⟩

/-- FLUSH's last part waits for the port, and makes the section readable again (43_flash_programmer.md rule R204). -/
theorem flushEnable_rwwSafe (s : State) : RwwSafe (flushEnable s) := by
  unfold flushEnable
  split
  · exact fun _ => ⟨_, .inr rfl⟩
  · rename_i hb
    rw [flashRwwEnable, if_neg hb]
    exact .of_enabled rfl

/-! ### Instructions, begun with the section readable -/

theorem stageLoop_rwwSafe {p : List Byte} {a : Word16} (hr : s.rwwEnabled = true) : RwwSafe (stageLoop a p s) := by
  induction p generalizing a s with
  | nil => exact .of_enabled hr
  | cons b bs ih =>
    unfold stageLoop
    split
    · exact ih hr
    · split
      · exact flushErase_rwwSafe hr
      · split
        · exact .inl (anchor_error hr ‹_›)
        · rename_i u hu
          obtain ⟨-, -, rfl⟩ := anchor_ok hu
          exact ih hr

theorem execFlushPending_rwwSafe (hr : s.rwwEnabled = true) : RwwSafe (execFlushPending s) := by
  unfold execFlushPending
  split
  · exact flushErase_rwwSafe hr
  · exact .of_enabled hr

/-- An instruction that can begin no FLUSH does not fault. -/
theorem exec_not_fault {i : Instr} (hi : flushes i = false) (f : Fault) : exec i s ≠ .fault f := by
  intro hx
  cases i with
  | stage | flushPending | flush | recData | recEof => cases hi
  | recv => simp only [exec, execRecv] at hx; split at hx <;> cases hx
  | rxisr => simp only [exec, execRxisr] at hx; split at hx <;> cases hx
  | csLeave => simp only [exec, execCsLeave] at hx; split at hx <;> cases hx
  | _ => cases hx

/-- An instruction that can begin no FLUSH leaves the section as it is. -/
theorem exec_rwwSafe_of_not_flushes {i : Instr} (hi : flushes i = false) (hr : s.rwwEnabled = true) :
    RwwSafe (exec i s) := by
  cases hx : exec i s with
  | next t =>
    obtain ⟨-, -, hkept⟩ := (exec_frame hx).flashing hi
    exact .of_enabled (hkept.trans hr)
  | fault f => exact absurd hx (exec_not_fault hi f)
  | refused r => trivial

theorem exec_rwwSafe {i : Instr} (hr : s.rwwEnabled = true) : RwwSafe (exec i s) := by
  cases hi : flushes i with
  | false => exact exec_rwwSafe_of_not_flushes hi hr
  | true =>
    cases i with
    | stage | recData => exact stageLoop_rwwSafe hr
    | flushPending | recEof => exact execFlushPending_rwwSafe hr
    | flush => exact flushErase_rwwSafe hr
    | _ => cases hi

/-! ### The sequencer -/

theorem runEncoded_rwwSafe {sp : Space} {bs : List Byte} (hr : s.rwwEnabled = true) : RwwSafe (runEncoded sp bs s) := by
  unfold runEncoded
  split
  · exact exec_rwwSafe hr
  · trivial

/-- While the section is disabled, the task to be done is one of FLUSH's own (43_flash_programmer.md rule R204). -/
theorem runTask_rwwSafe {k : Task} (h : s.rwwEnabled = false → k = .flushProgram ∨ k = .flushEnable) :
    RwwSafe (runTask k s) := by
  have henabled : k ≠ .flushProgram → k ≠ .flushEnable → s.rwwEnabled = true := fun hp he =>
    Bool.eq_true_of_not_eq_false fun hd => (h hd).elim hp he
  cases k with
  | run i => exact exec_rwwSafe (henabled nofun nofun)
  | fetch sp bs => exact runEncoded_rwwSafe (henabled nofun nofun)
  | goto | retire => exact .of_enabled (henabled nofun nofun)
  | flushErase => exact flushErase_rwwSafe (henabled nofun nofun)
  | flushProgram => exact flushProgram_rwwSafe s
  | flushEnable => exact flushEnable_rwwSafe s
  | stageRest a p => exact stageLoop_rwwSafe (henabled nofun nofun)

theorem commandLoop_rwwSafe (hr : s.rwwEnabled = true) : RwwSafe (commandLoop s) := by
  unfold commandLoop
  split
  · exact exec_rwwSafe hr
  · split
    · exact exec_rwwSafe hr
    · exact runEncoded_rwwSafe hr

theorem headerPhase_rwwSafe (hr : s.rwwEnabled = true) : RwwSafe (headerPhase s) := by
  unfold headerPhase
  split
  · exact exec_rwwSafe hr
  · split
    · exact exec_rwwSafe hr
    · split
      · exact exec_rwwSafe hr
      · split
        · exact .of_enabled hr
        · exact exec_rwwSafe hr

theorem bodyPhase_rwwSafe (hr : s.rwwEnabled = true) : RwwSafe (bodyPhase s) := by
  unfold bodyPhase
  split <;> exact exec_rwwSafe hr

theorem startReply_rwwSafe (bs : List Byte) (hr : s.rwwEnabled = true) : RwwSafe (startReply bs s) := by
  cases bs with
  | nil => exact .of_enabled hr
  | cons b bs => exact exec_rwwSafe (i := .send b) (s := pushSends bs s) hr

/-- Verify reads program memory with nothing left to do, outside FLUSH (44_command_sequencer.md rule R230). -/
theorem verifyPhase_rwwSafe (hr : s.rwwEnabled = true) : RwwSafe (verifyPhase s) := by
  unfold verifyPhase
  split
  · split
    · exact .inl (memRead_error_of_enabled hr ‹_›)
    · exact startReply_rwwSafe _ hr
  · exact exec_rwwSafe hr

theorem advance_rwwSafe (hr : s.rwwEnabled = true) : RwwSafe (advance s) := by
  unfold advance
  cases s.seq with
  | reset => dsimp only; split <;> exact exec_rwwSafe hr
  | awaitCmd => exact commandLoop_rwwSafe hr
  | uploadHdr => exact headerPhase_rwwSafe hr
  | uploadBody =>
    dsimp only
    split
    · exact exec_rwwSafe hr
    · exact bodyPhase_rwwSafe hr
  | verify => exact verifyPhase_rwwSafe hr
  | quit => exact exec_rwwSafe hr
  | info | fuses | unknown | handedOff => exact .of_enabled hr

theorem sequencerStep_rwwSafe (h : s.RwwDisciplined) : RwwSafe (sequencerStep s) := by
  unfold sequencerStep
  split
  · rename_i ht
    refine advance_rwwSafe (Bool.eq_true_of_not_eq_false fun hd => ?_)
    obtain ⟨ts, e | e⟩ := h hd <;> rw [ht] at e <;> cases e
  · rename_i k ts ht
    refine runTask_rwwSafe fun hd => ?_
    obtain ⟨us, e | e⟩ := h hd
    · exact .inl (List.cons.inj (ht.symm.trans e)).1
    · exact .inr (List.cons.inj (ht.symm.trans e)).1

/-! ### Every agent -/

/-- The receive agent leaves the continuation and the section alone (60_exceptions.md rule R271). -/
theorem receiveStep_rwwSafe (h : s.RwwDisciplined) : RwwSafe (receiveStep s) := by
  have hf := Frame.refl .rxisr s
  unfold receiveStep
  split
  · obtain ⟨-, -, hr⟩ := hf.returnFromInterrupt.flashing rfl
    exact h.of_unchanged (by simp) hr
  · split
    · rename_i he
      split
      · obtain ⟨-, -, hr⟩ := hf.takeInterrupt.returnFromInterrupt.flashing rfl
        rw [exec, execRxisr, if_pos he]
        exact h.of_unchanged (by simp) hr
      · trivial
    · exact h

theorem agentStep_rwwSafe (h : s.RwwDisciplined) (e : Event) : RwwSafe (agentStep e s) := by
  cases e with
  | sequencer =>
    simp only [agentStep]
    split
    · exact h
    · exact sequencerStep_rwwSafe h
  | receive => exact receiveStep_rwwSafe h
  | transmitter | flashEngine | peerTakes => exact h
  | peer b =>
    show (peerStep b s).RwwDisciplined
    rcases peerStep_cases b s with ⟨-, e⟩ | ⟨-, e⟩ <;> rw [e] <;> exact h

theorem step_rwwSafe (h : s.RwwDisciplined) : RwwSafe (step s) := by
  unfold step
  split
  · obtain ⟨es, n, e⟩ := afterChoice_eq s
    exact agentStep_rwwSafe (by rw [e]; exact h) _
  · trivial

end

/-- Settles O52: every step's answer keeps the discipline or is a fault on an address. -/
theorem onlyAddressFaults : Obligations.OnlyAddressFaults := by
  intro s h
  have hs := step_rwwSafe h
  constructor
  · intro f hx
    rwa [hx] at hs
  · intro t hx
    rwa [hx] at hs

end Sys2Proof.Machine
end

section
/-! SUPPORT. Record lines, their sums and their fields (30_encoding.md rules R94 to R97): the line a sender writes and what DECREC
answers on it. -/

namespace Sys2Proof.Machine

/-! ### Record lines (rules R94, R97) -/

/-- The header a sender writes for a record (rule R94). -/
def lineHeader (r : HexRecord) : Header where
  marker := startMarker
  n1 := hexChar (r.byteCount >>> 4)
  n0 := hexChar (r.byteCount &&& 0x0F)
  a3 := hexChar (hiByte r.address >>> 4)
  a2 := hexChar (hiByte r.address &&& 0x0F)
  a1 := hexChar (loByte r.address >>> 4)
  a0 := hexChar (loByte r.address &&& 0x0F)
  t1 := hexChar (r.recordType >>> 4)
  t0 := hexChar (r.recordType &&& 0x0F)

/-- The body a sender writes for a record: its payload and checksum characters (rule R94). -/
def lineBody (r : HexRecord) : List Byte := r.payload.flatMap hexPair ++ hexPair r.checksum

theorem recordLine_eq (r : HexRecord) : recordLine r = headerChars (lineHeader r) ++ lineBody r := rfl

theorem lineBody_length (r : HexRecord) : (lineBody r).length = 2 * r.payload.length + 2 := by
  rw [lineBody, List.length_append, hexPairs_length]; rfl

theorem bodyLength_lineHeader (r : HexRecord) : bodyLength (lineHeader r) = 2 * r.byteCount.toNat + 2 :=
  bodyLength_of (decByte_hexPair r.byteCount)

theorem decHdr_lineHeader (r : HexRecord) : decHdr (lineHeader r) = .ok (r.byteCount, r.recordType) :=
  decHdr_of rfl (decByte_hexPair _) (decByte_hexPair _)

/-- A written line decodes to its record when the sum is zero, and is a checksum error when it is not (rule R97). -/
theorem decRec_line {r : HexRecord} (hl : r.payload.length = r.byteCount.toNat) :
    decRec (lineHeader r) (lineBody r) =
      if recordSum r.byteCount r.address r.recordType r.payload r.checksum = 0 then .ok r else .error .checksum :=
  decRec_of rfl (decByte_hexPair _) (dec16_of (decByte_hexPair _) (decByte_hexPair _)) (decByte_hexPair _)
    (hl ▸ decPairs_hexPairs r.payload (hexPair r.checksum)) (decByte_hexPair _)

/-- The digits of a field are the two its byte is written with (rules R96, R167). -/
theorem hexChars_of_decByte {c1 c0 b : Byte} (h : decByte c1 c0 = some b) :
    c1 = hexChar (b >>> 4) ∧ c0 = hexChar (b &&& 0x0F) := by
  have e := hexPair_of_decByte h
  simp only [hexPair, List.cons.injEq, and_true] at e
  exact ⟨e.1.symm, e.2.symm⟩

/-- A record DECREC returns is what its line was written from, where the body is as long as the header announces (rules R164,
R167). -/
theorem decRec_ok_line {h : Header} {body : List Byte} {r : HexRecord} (hl : body.length = bodyLength h)
    (hr : decRec h body = .ok r) : h = lineHeader r ∧ body = lineBody r := by
  obtain ⟨hm, hn, ha, ht, c1, c0, rest, hp, hc, -⟩ := decRec_ok hr
  obtain ⟨hb, hpl⟩ := hexPairs_of_decPairs hp
  constructor
  · obtain ⟨hhi, hlo⟩ := dec16_some ha
    obtain ⟨e1, e0⟩ := hexChars_of_decByte hn
    obtain ⟨e3', e2'⟩ := hexChars_of_decByte hhi
    obtain ⟨e1', e0'⟩ := hexChars_of_decByte hlo
    obtain ⟨et1, et0⟩ := hexChars_of_decByte ht
    rw [lineHeader, ← hm, ← e1, ← e0, ← e3', ← e2', ← e1', ← e0', ← et1, ← et0]
  · have hrest : rest = [] := by
      rw [bodyLength_of hn, hb, List.length_append, hexPairs_length, hpl] at hl
      simpa using hl
    rw [hb, hrest, lineBody, hexPair_of_decByte hc]

/-- The sender's checksum is the only one that makes the sum zero (rule R97). -/
theorem recordSum_eq_zero_iff {n t ck : Byte} {a : Word16} {p : List Byte} :
    recordSum n a t p ck = 0 ↔ ck = checksumOf n a t p := by
  have hsplit : ∀ c, recordSum n a t p c = c + recordSum n a t p 0 := fun c => by
    simp [recordSum, BitVec.add_comm c]
  rw [hsplit, checksumOf]
  exact eq_neg_iff_add_eq_zero.symm

/-- The record a sender makes of a valid record's type, address and payload is that record (rule R97). -/
theorem mkRecord_eq {r : HexRecord} (hl : r.payload.length = r.byteCount.toNat)
    (hs : recordSum r.byteCount r.address r.recordType r.payload r.checksum = 0) :
    mkRecord r.recordType r.address r.payload = r := by
  have hn : BitVec.ofNat 8 r.payload.length = r.byteCount := by rw [hl, BitVec.ofNat_toNat, BitVec.setWidth_eq]
  simp only [mkRecord, hn, ← recordSum_eq_zero_iff.mp hs]

theorem mkRecord_valid {t : Byte} {a : Word16} {p : List Byte} (hl : p.length ≤ 255) :
    p.length = (mkRecord t a p).byteCount.toNat := by
  simp [mkRecord]; omega

/-! ### The sum as a number (rule R97) -/

theorem byteSum_toNat (p : List Byte) : (byteSum p).toNat = (p.map BitVec.toNat).sum % 256 := by
  induction p with
  | nil => rfl
  | cons b p ih => simp [byteSum, BitVec.toNat_add, ih]

theorem recordSum_toNat (r : HexRecord) :
    (recordSum r.byteCount r.address r.recordType r.payload r.checksum).toNat = recordTotal r % 256 := by
  simp only [recordSum, recordTotal, BitVec.toNat_add, byteSum_toNat]
  omega

theorem recordSum_eq_zero_iff_total (r : HexRecord) :
    recordSum r.byteCount r.address r.recordType r.payload r.checksum = 0 ↔ recordTotal r % 256 = 0 := by
  rw [← recordSum_toNat, ← BitVec.toNat_inj]; rfl

/-- Settles O7: a written line has all digits good, so DECREC's answer is decided by the sum alone. -/
theorem checksumRule : Obligations.ChecksumRule := by
  refine ⟨fun r h body hl hh => ?_, fun t a p _ => ?_⟩
  · rw [recordLine_eq, headerOf_headerChars, Option.some.injEq, Prod.mk.injEq] at hh
    obtain ⟨rfl, rfl⟩ := hh
    rw [decRec_line hl]
    constructor
    · exact fun h0 => if_pos ((recordSum_eq_zero_iff_total r).mpr h0)
    · exact fun h0 => if_neg (mt (recordSum_eq_zero_iff_total r).mp h0)
  · rw [← recordSum_toNat]
    exact BitVec.toNat_neg _

/-! ### Fields (rules R95, R96) -/

/-- Settles O5: in each branch of `hexVal` both sides are linear facts about the character and the value. -/
theorem hexDigits : Obligations.HexDigits := by
  intro c v
  unfold hexVal
  simp only [BitVec.le_def]
  split_ifs with h1 h2 <;> simp [← BitVec.toNat_inj, BitVec.toNat_sub, BitVec.toNat_add] at * <;> omega

/-- An 8-bit field of two digits (rule R96). -/
theorem decByte_of_digits {c1 c0 h1 h0 : Byte} (e1 : hexVal c1 = some h1) (e0 : hexVal c0 = some h0) :
    ∃ b, decByte c1 c0 = some b ∧ b.toNat = 16 * h1.toNat + h0.toNat := by
  refine ⟨16 * h1 + h0, by simp [decByte, e1, e0], ?_⟩
  have := (hexChar_of_hexVal e1).2
  have := (hexChar_of_hexVal e0).2
  simp [BitVec.toNat_add, BitVec.toNat_mul]
  omega

/-- Each byte of a payload is the 8-bit field at its place (rule R96). -/
theorem decPairs_getD {n : Nat} {cs p rest : List Byte} (h : decPairs n cs = some (p, rest)) {k : Nat} (hk : k < n) :
    decByte (cs.getD (2 * k) 0) (cs.getD (2 * k + 1) 0) = some (p.getD k 0) := by
  obtain ⟨rfl, rfl⟩ := hexPairs_of_decPairs h
  clear h
  induction p generalizing k with
  | nil => simp at hk
  | cons b p ih =>
    cases k with
    | zero => exact decByte_hexPair b
    | succ k => exact ih (Nat.lt_of_succ_lt_succ hk)

/-- Settles O6: the address field is assembled from its two 8-bit fields. -/
theorem fieldAssembly : Obligations.FieldAssembly := by
  refine ⟨fun _ _ _ _ => decByte_of_digits, fun c3 c2 c1 c0 h3 h2 h1 h0 e3 e2 e1 e0 => ?_,
    fun n cs p rest h => ⟨(hexPairs_of_decPairs h).2, fun k => decPairs_getD h⟩⟩
  obtain ⟨hi, ehi, vhi⟩ := decByte_of_digits e3 e2
  obtain ⟨lo, elo, vlo⟩ := decByte_of_digits e1 e0
  have fhi : decByte c3 c2 = some (hiByte (joinBytes hi lo)) := by rw [ehi, hiByte_joinBytes]
  have flo : decByte c1 c0 = some (loByte (joinBytes hi lo)) := by rw [elo, loByte_joinBytes]
  refine ⟨joinBytes hi lo, dec16_of fhi flo, ?_, fhi, flo⟩
  rw [joinBytes_toNat, vhi, vlo]
  omega

end Sys2Proof.Machine
end

section
/-! SUPPORT. The two round trips of the five spaces (30_encoding.md rules R91, R94, R101, R104, R112): what each decoder answers
on an encoding, and what each of its answers was read from. -/

namespace Sys2Proof.Machine

/-! ### One-byte spaces: commands, status bytes, control bytes -/

theorem decodeFirst_cons {f : Byte → Option Instr} {b : Byte} {i : Instr} (h : f b = some i) (rest : List Byte) :
    decodeFirst f (b :: rest) = some (i, rest) := by
  simp [decodeFirst, h]

theorem decodeFirst_some {f : Byte → Option Instr} {bs rest : List Byte} {i : Instr}
    (h : decodeFirst f bs = some (i, rest)) : ∃ b, f b = some i ∧ bs = b :: rest := by
  cases bs with
  | nil => simp [decodeFirst] at h
  | cons b bs =>
    simp only [decodeFirst] at h
    split at h
    · rename_i j hj
      obtain ⟨rfl, rfl⟩ := Prod.mk.inj (Option.some.inj h)
      exact ⟨b, hj, rfl⟩
    · simp at h

theorem notALetter_iff {c : Byte} :
    notALetter c = true ↔ c ≠ 0x71 ∧ c ≠ 0x66 ∧ c ≠ 0x69 ∧ c ≠ 0x75 ∧ c ≠ 0x76 := by
  simp [notALetter, and_assoc]

/-- Every byte but the five letters is an unknown command (rule R93). -/
theorem decodeCmd_of_notALetter {c : Byte} (h : notALetter c = true) : decodeCmd c = .cmdUnknown c := by
  obtain ⟨hq, hf, hi, hu, hv⟩ := notALetter_iff.mp h
  rw [decodeCmd, if_neg hq, if_neg hf, if_neg hi, if_neg hu, if_neg hv]

/-- A command byte is the whole encoding of its command (rules R91 to R93). -/
theorem encode_decodeCmd (ready b : Byte) : WellFormed (decodeCmd b) = true ∧ encode ready (decodeCmd b) = [b] := by
  cases hb : notALetter b
  · have hl : b = 0x71 ∨ b = 0x66 ∨ b = 0x69 ∨ b = 0x75 ∨ b = 0x76 := by
      by_contra hc
      simp only [not_or] at hc
      exact absurd (notALetter_iff.mpr hc) (by simp [hb])
    rcases hl with rfl | rfl | rfl | rfl | rfl <;> exact ⟨rfl, rfl⟩
  · rw [decodeCmd_of_notALetter hb]
    exact ⟨hb, rfl⟩

/-- Details 5 to 31 of code OK are STS.OK's (rule R103). -/
theorem decodeSts_stsOk {d : BitVec 5} (h : 5 ≤ d.toNat) : decodeSts (statusByte 0 d) = some (.stsOk d) := by
  revert d; decide

/-- READY_BYTE plays no part in a status row. -/
theorem encode_sts {i : Instr} (hi : spaceOf i = .sts) (ready : Byte) : encode ready i = encode 0 i := by
  cases i with
  | ctlReady => cases hi
  | _ => rfl

/-- A status byte is the whole encoding of its row (rules R101 to R103). -/
theorem encode_of_decodeSts {b : Byte} {i : Instr} (h : decodeSts b = some i) (ready : Byte) :
    WellFormed i = true ∧ spaceOf i = .sts ∧ encode ready i = [b] := by
  have table : ∀ b : Byte, ∀ i ∈ decodeSts b, WellFormed i = true ∧ spaceOf i = .sts ∧ encode 0 i = [b] := by decide
  obtain ⟨hw, hs, he⟩ := table b i h
  exact ⟨hw, hs, (encode_sts hs ready).trans he⟩

/-- A control byte is the whole encoding of its row (rule R104). -/
theorem encode_of_decodeCtl {ready b : Byte} {i : Instr} (h : decodeCtl ready b = some i) :
    WellFormed i = true ∧ spaceOf i = .ctl ∧ encode ready i = [b] := by
  unfold decodeCtl at h
  split_ifs at h <;> obtain rfl := Option.some.inj h <;> subst b <;> exact ⟨rfl, rfl, rfl⟩

/-! ### Operations (rule R112, log entry 9) -/

/-- An item of a space was read from exactly the bytes of its encoding. -/
def ReadFrom (ready : Byte) (sp : Space) (bs : List Byte) (i : Instr) (rest : List Byte) : Prop :=
  WellFormed i = true ∧ spaceOf i = sp ∧ bs = encode ready i ++ rest

section
variable {ready : Byte} {sp : Space} {bs rest : List Byte} {i : Instr}

theorem ReadFrom.of_answer {j : Instr} {r : List Byte} (h : some (j, r) = some (i, rest)) (hj : ReadFrom ready sp bs j r) :
    ReadFrom ready sp bs i rest := by
  obtain ⟨rfl, rfl⟩ := Prod.mk.inj (Option.some.inj h)
  exact hj

theorem ofNat_length_toNat {w : Nat} {l : List Byte} (h : l.length < 2 ^ w) :
    (BitVec.ofNat w l.length).toNat = l.length := by
  rw [BitVec.toNat_ofNat, Nat.mod_eq_of_lt h]

/-- DECREC's operands decode to its header and body, whose length fits in two bytes. -/
theorem decodeDecrec_encoded {h : Header} {body : List Byte} (hb : bodyFits h body = true) (rest : List Byte) :
    decodeDecrec h (hiByte (BitVec.ofNat 16 body.length) :: loByte (BitVec.ofNat 16 body.length) :: (body ++ rest)) =
      some (.decrec h body, rest) := by
  have hl : (BitVec.ofNat 16 body.length).toNat = body.length :=
    ofNat_length_toNat (Nat.lt_of_le_of_lt (Laws.EncodingShape.bodyFits_length hb) (by decide))
  simp [decodeDecrec, hl, hb]

/-- STAGE's operands decode to its address and payload, whose length fits in a byte. -/
theorem decodeStage_encoded {p : List Byte} (hp : p.length ≤ 255) (a : Word16) (rest : List Byte) :
    decodeStage (hiByte a :: loByte a :: BitVec.ofNat 8 p.length :: (p ++ rest)) = some (.stage a p, rest) := by
  have hl : (BitVec.ofNat 8 p.length).toNat = p.length := ofNat_length_toNat (Nat.lt_succ_of_le hp)
  simp only [decodeStage, joinBytes_hiByte_loByte, hl, List.length_append, Nat.le_add_right, if_true, List.take_left',
    List.drop_left']

theorem decodeDecrec_readFrom {h : Header} (hd : decodeDecrec h bs = some (i, rest)) :
    ReadFrom ready .op (0x05 :: (headerChars h ++ bs)) i rest := by
  unfold decodeDecrec at hd
  split at hd
  · split_ifs at hd with hc
    obtain ⟨hlen, hfit⟩ := hc
    exact .of_answer hd ⟨hfit, rfl, by simp [encode, Nat.min_eq_left hlen]⟩
  · simp at hd

theorem decodeStage_readFrom (hd : decodeStage bs = some (i, rest)) : ReadFrom ready .op (0x06 :: bs) i rest := by
  unfold decodeStage at hd
  split at hd
  · rename_i a1 a0 len tail
    split_ifs at hd with hlen
    have := len.isLt
    refine .of_answer hd ⟨?_, rfl, by simp [encode, Nat.min_eq_left hlen]⟩
    rw [WellFormed, decide_eq_true_eq, List.length_take]
    omega
  · simp at hd

theorem decodeOperands_dechdr (bs : List Byte) :
    decodeOperands 0x04 bs = (headerOf bs).map (fun p => (.dechdr p.1, p.2)) := by
  unfold decodeOperands
  cases headerOf bs <;> rfl

theorem decodeOperands_decrec (bs : List Byte) :
    decodeOperands 0x05 bs = (headerOf bs).bind (fun p => decodeDecrec p.1 p.2) := by
  unfold decodeOperands
  cases headerOf bs <;> rfl

theorem decodeOperands_decrec_headerChars (h : Header) (bs : List Byte) :
    decodeOperands 0x05 (headerChars h ++ bs) = decodeDecrec h bs := by
  rw [decodeOperands_decrec, headerOf_headerChars, Option.bind_some]

/-- The twelve select codes, and all others unused (rule R112). -/
theorem selectCode_cases (code : Byte) :
    code = 0x00 ∨ code = 0x01 ∨ code = 0x02 ∨ code = 0x03 ∨ code = 0x04 ∨ code = 0x05 ∨ code = 0x06 ∨ code = 0x07 ∨
      code = 0x08 ∨ code = 0x09 ∨ code = 0x0A ∨ code = 0x0B ∨ ∀ bs, decodeOperands code bs = none := by
  by_contra hc
  simp only [not_or] at hc
  obtain ⟨h0, h1, h2, h3, h4, h5, h6, h7, h8, h9, hA, hB, hn⟩ := hc
  exact hn fun bs => by
    rw [decodeOperands.eq_def, if_neg h0, if_neg h1, if_neg h2, if_neg h3, if_neg h4, if_neg h5, if_neg h6, if_neg h7,
      if_neg h8, if_neg h9, if_neg hA, if_neg hB]

/-- The bytes an operation was read from are its encoding (rule R112). -/
theorem decodeOp_readFrom (h : decodeOp bs = some (i, rest)) : ReadFrom ready .op bs i rest := by
  match bs, h with
  | code :: bs, h =>
    rw [decodeOp] at h
    rcases selectCode_cases code with rfl | rfl | rfl | rfl | rfl | rfl | rfl | rfl | rfl | rfl | rfl | rfl | hn
    · match bs, h with
      | b :: bs, h => exact .of_answer h ⟨rfl, rfl, rfl⟩
    · exact .of_answer h ⟨rfl, rfl, rfl⟩
    · exact .of_answer h ⟨rfl, rfl, rfl⟩
    · match bs, h with
      | c1 :: c0 :: bs, h => exact .of_answer h ⟨rfl, rfl, rfl⟩
    · rw [decodeOperands_dechdr, Option.map_eq_some_iff] at h
      obtain ⟨⟨hdr, tail⟩, hh, h⟩ := h
      rw [headerOf_some hh]
      exact .of_answer (congrArg some h) ⟨rfl, rfl, rfl⟩
    · rw [decodeOperands_decrec, Option.bind_eq_some_iff] at h
      obtain ⟨⟨hdr, tail⟩, hh, h⟩ := h
      rw [headerOf_some hh]
      exact decodeDecrec_readFrom h
    · exact decodeStage_readFrom h
    · exact .of_answer h ⟨rfl, rfl, rfl⟩
    · exact .of_answer h ⟨rfl, rfl, rfl⟩
    · exact .of_answer h ⟨rfl, rfl, rfl⟩
    · exact .of_answer h ⟨rfl, rfl, rfl⟩
    · exact .of_answer h ⟨rfl, rfl, rfl⟩
    · simp [hn] at h

end

/-! ### Record lines (rules R94, R98, R228) -/

/-- A DATA or END_OF_FILE line a sender makes decodes whole (rule R164). -/
theorem decodeRecord_recordLine {t : Byte} (ht : t = 0x00 ∨ t = 0x01) (a : Word16) {p : List Byte} (hp : p.length ≤ 255)
    (rest : List Byte) :
    decodeRecord (recordLine (mkRecord t a p) ++ rest) =
      some (instrOfRecord (lineHeader (mkRecord t a p)) (mkRecord t a p), rest) := by
  have hl := mkRecord_valid (t := t) (a := a) hp
  have hlen : bodyLength (lineHeader (mkRecord t a p)) = (lineBody (mkRecord t a p)).length := by
    rw [bodyLength_lineHeader, lineBody_length, ← hl]; rfl
  have hrec : decRec (lineHeader (mkRecord t a p)) (lineBody (mkRecord t a p)) = .ok (mkRecord t a p) := 
    (decRec_line hl).trans (if_pos (recordSum_checksumOf ..))
  have ht' : (mkRecord t a p).recordType = 0x00 ∨ (mkRecord t a p).recordType = 0x01 := ht
  rw [recordLine_eq, List.append_assoc, decodeRecord, headerOf_headerChars]
  simp only [decHdr_lineHeader, if_pos ht', hlen, List.length_append, Nat.le_add_right, if_true, List.take_left', hrec,
    List.drop_left']

/-- The header of a record type the block does not implement, its address characters as they are (rule R228). -/
def bareHeader (t n : Byte) (a : AddrChars) : Header where
  marker := startMarker
  n1 := hexChar (n >>> 4)
  n0 := hexChar (n &&& 0x0F)
  a3 := a.a3
  a2 := a.a2
  a1 := a.a1
  a0 := a.a0
  t1 := hexChar (t >>> 4)
  t0 := hexChar (t &&& 0x0F)

theorem headerLine_eq (t n : Byte) (a : AddrChars) : headerLine t n a = headerChars (bareHeader t n a) := rfl

theorem decHdr_bareHeader (t n : Byte) (a : AddrChars) : decHdr (bareHeader t n a) = .ok (n, t) :=
  decHdr_of rfl (decByte_hexPair n) (decByte_hexPair t)

/-- A header that decodes is the one written from its byte count, its type and its address characters (rule R163). -/
theorem decHdr_ok_bareHeader {h : Header} {n t : Byte} (hh : decHdr h = .ok (n, t)) : h = bareHeader t n (headerAddr h) := by
  obtain ⟨hm, hn, ht⟩ := decHdr_ok hh
  obtain ⟨e1, e0⟩ := hexChars_of_decByte hn
  obtain ⟨et1, et0⟩ := hexChars_of_decByte ht
  rw [bareHeader, ← hm, ← e1, ← e0, ← et1, ← et0]
  rfl

/-- The header of an unimplemented type stands by itself (rule R228). -/
theorem decodeRecord_headerLine {t : Byte} (ht : ¬(t = 0x00 ∨ t = 0x01)) (n : Byte) (a : AddrChars) (rest : List Byte) :
    decodeRecord (headerLine t n a ++ rest) = some (unimplementedRecord t n a, rest) := by
  rw [headerLine_eq, decodeRecord, headerOf_headerChars]
  simp only [decHdr_bareHeader, if_neg ht]
  rfl

/-- The rows of the unimplemented types are written as their header line (rules R98, R228). -/
theorem encode_unimplementedRecord {t : Byte} (ht : ¬(t = 0x00 ∨ t = 0x01)) (n : Byte) (a : AddrChars) (ready : Byte) :
    WellFormed (unimplementedRecord t n a) = true ∧ encode ready (unimplementedRecord t n a) = headerLine t n a := by
  unfold unimplementedRecord
  split_ifs with h2 h3 h4 h5
  · subst t; exact ⟨rfl, rfl⟩
  · subst t; exact ⟨rfl, rfl⟩
  · subst t; exact ⟨rfl, rfl⟩
  · subst t; exact ⟨rfl, rfl⟩
  · refine ⟨decide_eq_true ?_, rfl⟩
    bv_omega

/-- The rows of the implemented types are written as the line of their record (rules R94, R98). -/
theorem encode_instrOfRecord {r : HexRecord} (ht : r.recordType = 0x00 ∨ r.recordType = 0x01)
    (hl : r.payload.length = r.byteCount.toNat)
    (hs : recordSum r.byteCount r.address r.recordType r.payload r.checksum = 0) (h : Header) (ready : Byte) :
    WellFormed (instrOfRecord h r) = true ∧ encode ready (instrOfRecord h r) = recordLine r := by
  have hp : r.payload.length ≤ 255 := by
    have := r.byteCount.isLt
    omega
  have hr := mkRecord_eq hl hs
  unfold instrOfRecord
  rcases ht with ht | ht <;> rw [ht] at hr ⊢
  · exact ⟨decide_eq_true hp, congrArg recordLine hr⟩
  · exact ⟨decide_eq_true hp, congrArg recordLine hr⟩

/-- The characters a record was read from are its line (rule R94). -/
theorem decodeRecord_readFrom {ready : Byte} {bs rest : List Byte} {i : Instr} (hd : decodeRecord bs = some (i, rest)) :
    ReadFrom ready .record bs i rest := by
  unfold decodeRecord at hd
  split at hd
  · simp at hd
  rename_i h tail hh
  obtain rfl := headerOf_some hh
  split at hd
  · simp at hd
  rename_i n t hn
  split_ifs at hd with ht hlen
  · split at hd
    · simp at hd
    rename_i r hr
    have hbody : (tail.take (bodyLength h)).length = bodyLength h := by rw [List.length_take, Nat.min_eq_left hlen]
    obtain ⟨-, -, -, hrt, c1, c0, left, hp, -, hs⟩ := decRec_ok hr
    have hrt' : r.recordType = t := Option.some.inj (hrt.symm.trans (decHdr_ok hn).2.2)
    obtain ⟨hw, he⟩ := encode_instrOfRecord (hrt' ▸ ht) (hexPairs_of_decPairs hp).2 hs h ready
    obtain ⟨eh, eb⟩ := decRec_ok_line hbody hr
    refine .of_answer hd ⟨hw, spaceOf_instrOfRecord h r, ?_⟩
    rw [he, recordLine_eq, ← eh, ← eb, List.append_assoc, List.take_append_drop]
  · obtain ⟨hw, he⟩ := encode_unimplementedRecord ht n (headerAddr h) ready
    refine .of_answer hd ⟨hw, spaceOf_unimplementedRecord .., ?_⟩
    rw [he, headerLine_eq, ← decHdr_ok_bareHeader hn]

/-! ### The round trips -/

/-- Settles O2, space by space. -/
theorem encodeDecodeAgree : Obligations.EncodeDecodeAgree := by
  intro ready sp bs rest i h
  cases sp with
  | op => exact decodeOp_readFrom h
  | record => exact decodeRecord_readFrom h
  | cmd =>
    match bs, h with
    | b :: bs, h =>
      obtain ⟨hw, he⟩ := encode_decodeCmd ready b
      exact ReadFrom.of_answer h ⟨hw, spaceOf_decodeCmd b, by rw [he]; rfl⟩
  | sts =>
    obtain ⟨b, hb, rfl⟩ := decodeFirst_some h
    obtain ⟨hw, hs, he⟩ := encode_of_decodeSts hb ready
    exact ⟨hw, hs, by rw [he]; rfl⟩
  | ctl =>
    obtain ⟨b, hb, rfl⟩ := decodeFirst_some h
    obtain ⟨hw, hs, he⟩ := encode_of_decodeCtl hb
    exact ⟨hw, hs, by rw [he]; rfl⟩

/-- Settles O1: the rows with operands by the lemmas above, all others by evaluation. -/
theorem decodeEncodeAgree : Obligations.DecodeEncodeAgree := by
  intro ready i rest hw hready
  cases i with
  | decrec h body =>
    simp only [encode, List.cons_append, List.append_assoc]
    exact (decodeOperands_decrec_headerChars h _).trans (decodeDecrec_encoded hw rest)
  | stage a p => exact decodeStage_encoded (of_decide_eq_true hw) a rest
  | cmdUnknown c =>
    show some (decodeCmd c, rest) = _
    rw [decodeCmd_of_notALetter hw]
  | recData a p => exact decodeRecord_recordLine (.inl rfl) a (of_decide_eq_true hw) rest
  | recEof a p => exact decodeRecord_recordLine (.inr rfl) a (of_decide_eq_true hw) rest
  | recEsa n a => exact decodeRecord_headerLine (by decide) n a rest
  | recSsa n a => exact decodeRecord_headerLine (by decide) n a rest
  | recEla n a => exact decodeRecord_headerLine (by decide) n a rest
  | recSla n a => exact decodeRecord_headerLine (by decide) n a rest
  | recOther t n a =>
    have ht : ∀ v : Byte, v.toNat < 6 → t ≠ v := by
      rintro v hv rfl
      exact absurd (of_decide_eq_true hw) (Nat.not_le_of_lt hv)
    have hrow : unimplementedRecord t n a = .recOther t n a := by
      rw [unimplementedRecord, if_neg (ht _ (by decide)), if_neg (ht _ (by decide)), if_neg (ht _ (by decide)),
        if_neg (ht _ (by decide))]
    rw [← hrow]
    have h01 : ¬(t = 0x00 ∨ t = 0x01) := not_or.mpr ⟨ht _ (by decide), ht _ (by decide)⟩
    rw [spaceOf_unimplementedRecord, (encode_unimplementedRecord h01 n a ready).2]
    exact decodeRecord_headerLine h01 n a rest
  | stsOk d => exact decodeFirst_cons (decodeSts_stsOk (of_decide_eq_true hw)) rest
  | ctlReady =>
    obtain ⟨hxon, hxoff⟩ := hready rfl
    exact decodeFirst_cons (by rw [decodeCtl, if_neg hxon, if_neg hxoff, if_pos rfl]) rest
  | _ => rfl

end Sys2Proof.Machine
end

section
/-! SUPPORT. Single steps of the encoded items (30_encoding.md rules R90 to R92, R101 to R106, R112): words written out, the
sequencer's step on bytes in hand, the status and control bytes, and the Verify phase. -/

namespace Sys2Proof.Machine

/-! ### Words written out, and the command map -/

/-- Settles O3, each word by evaluation. -/
theorem writtenOutWords : Obligations.WrittenOutWords :=
  fun _ => ⟨rfl, rfl, rfl, rfl, rfl, rfl, rfl, rfl, rfl, rfl, rfl, rfl, rfl⟩

theorem transmit_seq (b : Byte) (again : Task) (s : State) : (transmit b again s).seq = s.seq := by
  unfold transmit
  split <;> rfl

/-- Settles O4: what sends the first byte of a reply leaves `seq` where the command moved it. -/
theorem commandMap : Obligations.CommandMap := by
  intro ready b rest
  have letter : ∀ {c i}, decodeCmd c = i → b = c → decode ready .cmd (b :: rest) = some (i, rest) := by
    rintro _ _ rfl rfl
    rfl
  refine ⟨letter rfl, letter rfl, letter rfl, letter rfl, letter rfl, fun hq hf hi hu hv => ?_, fun s => ?_⟩
  · exact letter (decodeCmd_of_notALetter (notALetter_iff.mpr ⟨hq, hf, hi, hu, hv⟩)) rfl
  · exact ⟨⟨_, rfl, transmit_seq ..⟩, ⟨_, rfl, transmit_seq ..⟩, ⟨_, rfl, transmit_seq ..⟩, ⟨_, rfl, rfl⟩, ⟨_, rfl, rfl⟩,
      ⟨_, rfl, transmit_seq ..⟩⟩

/-! ### The sequencer's step on a task and on nothing left to do -/

section
variable {s : State} {sp : Space} {bytes rest : List Byte} {i : Instr}

theorem runEncoded_of_decode (h : decode s.cfg.readyByte sp bytes = some (i, rest)) : runEncoded sp bytes s = exec i s := by
  rw [runEncoded, h]

@[simp] theorem afterChoice_todo (s : State) : (afterChoice s).todo = s.todo := by
  obtain ⟨_, _, e⟩ := afterChoice_eq s; rw [e]

@[simp] theorem afterChoice_seq (s : State) : (afterChoice s).seq = s.seq := by
  obtain ⟨_, _, e⟩ := afterChoice_eq s; rw [e]

@[simp] theorem afterChoice_active (s : State) : (afterChoice s).active = s.active := by
  obtain ⟨_, _, e⟩ := afterChoice_eq s; rw [e]

@[simp] theorem afterChoice_got (s : State) : (afterChoice s).got = s.got := by
  obtain ⟨_, _, e⟩ := afterChoice_eq s; rw [e]

@[simp] theorem afterChoice_txReady (s : State) : (afterChoice s).txReady = s.txReady := by
  obtain ⟨_, _, e⟩ := afterChoice_eq s; rw [e]

@[simp] theorem afterChoice_wireOut (s : State) : (afterChoice s).wireOut = s.wireOut := by
  obtain ⟨_, _, e⟩ := afterChoice_eq s; rw [e]

@[simp] theorem afterChoice_flash (s : State) : (afterChoice s).flash = s.flash := by
  obtain ⟨_, _, e⟩ := afterChoice_eq s; rw [e]

@[simp] theorem afterChoice_rwwEnabled (s : State) : (afterChoice s).rwwEnabled = s.rwwEnabled := by
  obtain ⟨_, _, e⟩ := afterChoice_eq s; rw [e]

theorem sequencerStep_of_task {k : Task} {ts : List Task} (ht : s.todo = k :: ts) :
    sequencerStep s = runTask k { s with todo := ts } := by
  rw [sequencerStep, ht]

theorem sequencerStep_of_nothing_left (ht : s.todo = []) : sequencerStep s = advance s := by
  rw [sequencerStep, ht]

theorem advance_of_awaitCmd (hq : s.seq = .awaitCmd) : advance s = commandLoop s := by
  rw [advance, hq]

theorem advance_of_verify (hq : s.seq = .verify) : advance s = verifyPhase s := by
  rw [advance, hq]

theorem step_of_task (h : s.SequencerTurn) {k : Task} {ts : List Task} (ht : s.todo = k :: ts) :
    step s = runTask k { afterChoice s with todo := ts } := by
  rw [step_of_turn h, sequencerStep_of_task ((afterChoice_todo s).trans ht)]

theorem step_of_nothing_left (h : s.SequencerTurn) (ht : s.todo = []) : step s = advance (afterChoice s) := by
  rw [step_of_turn h, sequencerStep_of_nothing_left ((afterChoice_todo s).trans ht)]

/-- The command loop with no command byte in hand (44_command_sequencer.md rule R221). -/
theorem commandLoop_of_nothing_read (ha : s.active = true) (hg : s.got = []) : commandLoop s = exec .recv s := by
  rw [commandLoop, if_neg (by simp [ha]), hg]

/-- The command loop with a command byte in hand (44_command_sequencer.md rule R221). -/
theorem commandLoop_of_byte (ha : s.active = true) {b : Byte} {got : List Byte} (hg : s.got = b :: got) :
    commandLoop s = exec (decodeCmd b) { s with cmd := b, got := got } := by
  rw [commandLoop, if_neg (by simp [ha]), hg]
  rfl

end

/-- Settles O11: bytes in hand and the next task are tasks, and the command byte is the command loop's. -/
theorem stepRunsDecodedInstruction : Obligations.StepRunsDecodedInstruction := by
  intro s h
  refine ⟨fun sp bytes rest ts i ht hd _ => ?_, fun i ts ht => step_of_task h ht,
    fun b got rest i ht hq ha hg hd _ => ?_⟩
  · rw [step_of_task h ht]
    exact runEncoded_of_decode (s := { afterChoice s with todo := ts }) (by simpa using hd)
  · obtain rfl : decodeCmd b = i := congrArg Prod.fst (Option.some.inj hd)
    rw [step_of_nothing_left h ht, advance_of_awaitCmd (by simpa using hq)]
    exact commandLoop_of_byte (by simpa using ha) (by simpa using hg)

/-! ### Opcode-table words (log entries 10 and 17) -/

/-- An opcode-table word is read the same whatever READY_BYTE is: the CTL space is taken for XON and XOFF alone. -/
theorem decode_tableSpace (ready : Byte) (bs : List Byte) :
    decode ready (tableSpace bs) bs = decode xonByte (tableSpace bs) bs := by
  cases bs with
  | nil => rfl
  | cons b bs =>
    rw [tableSpace]
    split_ifs with hop hcmd hctl
    · rfl
    · rfl
    · rcases hctl with rfl | rfl <;> rfl
    · rfl
    · rfl

theorem decodeTableWord_some {nbits w : Nat} {i : Instr} (h : decodeTableWord nbits w = some i) (ready : Byte) :
    ∃ rest, decode ready (tableSpace (tableBytes nbits w)) (tableBytes nbits w) = some (i, rest) := by
  unfold decodeTableWord at h
  split at h
  · rename_i j rest hd
    obtain rfl := Option.some.inj h
    exact ⟨rest, (decode_tableSpace ready _).trans hd⟩
  · simp at h

/-- Settles O12: the placed word is the next task of the sequencer, whose step is the next. -/
theorem tableWordRuns : Obligations.TableWordRuns := by
  intro s nbits w i ha hi
  obtain ⟨rest, hd⟩ := decodeTableWord_some hi s.cfg.readyByte
  have hturn : (s.withFetchWord nbits w).SequencerTurn := ⟨ha, rfl, rfl⟩
  rw [step_of_task hturn rfl]
  exact runEncoded_of_decode hd

/-! ### Control and status bytes (rules R101 to R104, log entry 11) -/

/-- Settles O21: each row is one test of the transmit register. -/
theorem controlBytesComplete : Obligations.ControlBytesComplete := by
  refine fun s => ⟨fun ht => ⟨?_, ?_, ?_⟩, fun ht => ⟨?_, ?_, ?_⟩⟩
  · exact congrArg Host.Outcome.next (if_pos ht)
  · exact congrArg Host.Outcome.next (if_pos ht)
  · exact congrArg Host.Outcome.next (transmit_ready ht ..)
  · exact congrArg Host.Outcome.next (if_neg (by simp [ht]))
  · exact congrArg Host.Outcome.next (if_neg (by simp [ht]))
  · exact congrArg Host.Outcome.next (transmit_busy ht ..)

/-- A status row computes the byte of its encoding and sends it, or waits as itself (log entry 11). -/
theorem exec_sts {i : Instr} (hi : spaceOf i = .sts) (ready : Byte) :
    ∃ b : Byte, encode ready i = [b] ∧ ∀ s, exec i s = .next (transmit b (.run i) { s with reply := b }) := by
  cases i with
  | stsOk | stsUnknownCommand | stsQuitting | stsNotImplemented | stsErrFraming | stsErrHexDigit | stsErrDecode
  | stsErrChecksum | okPlain | okHeaderAccepted | okPayloadAccepted | okLineCommitted | okFinished =>
    exact ⟨_, rfl, fun _ => rfl⟩
  | _ => cases hi

/-- Settles O41: the values by evaluation, every row's sending by `exec_sts`. -/
theorem statusBytesComplete : Obligations.StatusBytesComplete := by
  refine fun ready => ⟨rfl, rfl, rfl, rfl, rfl, rfl, rfl, rfl, rfl, rfl, rfl, rfl, fun i s hi => ?_⟩
  obtain ⟨b, hb, hx⟩ := exec_sts hi ready
  refine ⟨b, hb, fun ht => ?_, fun ht => ?_⟩
  · exact (hx s).trans (congrArg Host.Outcome.next (transmit_ready (s := { s with reply := b }) ht ..))
  · exact (hx s).trans (congrArg Host.Outcome.next (transmit_busy (s := { s with reply := b }) ht ..))

/-! ### The Verify phase (rules R105, R106) -/

section
variable {s : State}

theorem memRead_disabled (hr : s.rwwEnabled = false) (a : Word16) (n : Nat) :
    memRead a n s = .error .flashReadWhileBusy := by
  rw [memRead, if_pos hr]

theorem memRead_outside (hr : s.rwwEnabled = true) {a : Word16} {n : Nat}
    (ho : ∃ k < n, s.cfg.flashSize ≤ (a.toNat + k) % 65536) : memRead a n s = .error .flashAddressOutOfRange := by
  obtain ⟨k, hk, ho⟩ := ho
  rw [memRead, if_neg (by simp [hr]), if_neg]
  simp only [List.all_eq_true, List.mem_range, decide_eq_true_eq]
  exact fun hall => absurd (hall k hk) (Nat.not_lt_of_le ho)

theorem startReply_ready (ht : s.txReady = true) (b : Byte) (bs : List Byte) :
    startReply (b :: bs) s = .next (emit b (pushSends bs s)) :=
  congrArg Host.Outcome.next (transmit_ready (s := pushSends bs s) ht ..)

theorem startReply_busy (ht : s.txReady = false) (b : Byte) (bs : List Byte) :
    startReply (b :: bs) s = .next (pushSends (b :: bs) s) :=
  congrArg Host.Outcome.next (transmit_busy (s := pushSends bs s) ht ..)

/-- The Verify phase reads on while a request byte is missing (44_command_sequencer.md rule R230). -/
theorem verifyPhase_reading (hg : s.got.length < 3) : verifyPhase s = exec .recv s := by
  unfold verifyPhase
  split
  · rename_i h
    simp [h] at hg
    omega
  · rfl

variable {b0 b1 b2 : Byte} {rest : List Byte}

theorem verifyPhase_fault (hg : s.got = b0 :: b1 :: b2 :: rest) {f : Fault}
    (hm : memRead (joinBytes b0 b1) b2.toNat s = .error f) : verifyPhase s = .fault f := by
  rw [verifyPhase, hg]
  simp only [hm]

theorem verifyPhase_reply (hg : s.got = b0 :: b1 :: b2 :: rest) {data : List Byte}
    (hm : memRead (joinBytes b0 b1) b2.toNat s = .ok data) :
    verifyPhase s =
      startReply data (push (.goto .awaitCmd) { s with vaddr := joinBytes b0 b1, vcount := b2, got := rest }) := by
  rw [verifyPhase, hg]
  simp only [hm]

end

/-- The bytes a Verify request asks for (rule R106). -/
def requestedBytes (m : Memory) (b0 b1 b2 : Byte) : List Byte :=
  (List.range b2.toNat).map (fun k => Memory.read m ((256 * b0.toNat + b1.toNat + k) % 65536))

theorem memRead_request {s : State} {b0 b1 b2 : Byte} (hr : s.rwwEnabled = true)
    (hin : ∀ k < b2.toNat, (256 * b0.toNat + b1.toNat + k) % 65536 < s.cfg.flashSize) :
    memRead (joinBytes b0 b1) b2.toNat s = .ok (requestedBytes s.flash b0 b1 b2) := by
  rw [memRead_of hr (by rwa [joinBytes_toNat]), Memory.readBytes, joinBytes_toNat]
  rfl

theorem memRead_request_outside {s : State} {b0 b1 b2 : Byte} (hr : s.rwwEnabled = true)
    (ho : ∃ k < b2.toNat, s.cfg.flashSize ≤ (256 * b0.toNat + b1.toNat + k) % 65536) :
    memRead (joinBytes b0 b1) b2.toNat s = .error .flashAddressOutOfRange :=
  memRead_outside hr (by rwa [joinBytes_toNat])

/-- Settles O59, by what the phase does while it reads, on a fault, and on a reply. -/
theorem Settled.verifyPhase : Obligations.VerifyPhase := by
  intro s h ht hq
  rw [step_of_nothing_left h ht, advance_of_verify (by simpa using hq)]
  refine ⟨fun hg => verifyPhase_reading (by simpa using hg), fun b0 b1 b2 rest data u hg hdata hu => ?_⟩
  have hg' : (afterChoice s).got = b0 :: b1 :: b2 :: rest := by simpa using hg
  refine ⟨fun hr => ?_, fun hr ho => ?_, fun hr hin => ?_⟩
  · exact verifyPhase_fault hg' (memRead_disabled (by simpa using hr) ..)
  · exact verifyPhase_fault hg' (memRead_request_outside (by simpa using hr) (by simpa using ho))
  · have hm : memRead (joinBytes b0 b1) b2.toNat (afterChoice s) = .ok data := by
      rw [memRead_request (by simpa using hr) (by simpa using hin), afterChoice_flash, hdata]
      rfl
    rw [verifyPhase_reply hg' hm]
    subst u
    refine ⟨?_, fun d ds hd => ⟨fun htx => ?_, fun htx => ?_⟩⟩
    · rintro rfl
      obtain rfl : data = [] := hdata
      simp only [startReply, push, afterChoice_todo, ht]
      rfl
    · rw [hd, startReply_ready (by simpa using htx)]
      simp only [emit, pushSends, push, afterChoice_todo, afterChoice_wireOut, ht]
      rfl
    · rw [hd, startReply_busy (by simpa using htx)]
      simp only [pushSends, push, afterChoice_todo, ht]
      rfl

end Sys2Proof.Machine
end

section
/-! SUPPORT. Runs in a given order of agents, one step after another (00_scope.md rule R14): steps put together, queued bytes
read (40_transport.md rule R134), and bytes sent one a round (rules R130, R138). -/

namespace Sys2Proof.Machine

/-! ### Runs step by step -/

/-- However a run goes on after the events `es`, it goes on from `t`. -/
def Leads (es : List Event) (s t : State) : Prop := ∀ fs, s.plays (es ++ fs) = t.plays fs

section
variable {s t u : State} {es fs : List Event} {e : Event}

theorem Leads.trans (h : Leads es s t) (h' : Leads fs t u) : Leads (es ++ fs) s u := fun gs => by
  rw [List.append_assoc, h, h']

theorem Leads.plays (h : Leads es s t) : s.plays es = .next { t with script := [] } := by
  have := h []
  rwa [List.append_nil] at this

/-- The first event of the script is the agent whose step is taken. -/
theorem step_scripted (ha : s.cfg.Admissible) (e : Event) (fs : List Event) :
    core.step { s with script := e :: fs } = agentStep e { s with script := fs } :=
  step_of_admissible (s := { s with script := e :: fs }) ha

/-- One agent's step, the same whatever the rest of the script is. -/
theorem Leads.one (ha : s.cfg.Admissible)
    (hx : ∀ fs, agentStep e { s with script := fs } = .next { t with script := fs }) : Leads [e] s t := fun fs => by
  simp only [State.plays, List.singleton_append, List.length_cons, Host.Core.run, step_scripted ha, hx]
  rfl

theorem Leads.transmitter (ha : s.cfg.Admissible) : Leads [.transmitter] s (transmitterStep s) := .one ha fun _ => rfl

theorem Leads.sequencer (ha : s.cfg.Admissible) (hh : s.held = false)
    (hx : ∀ fs, sequencerStep { s with script := fs } = .next { t with script := fs }) : Leads [.sequencer] s t :=
  .one ha fun fs => (if_neg (by simp [hh])).trans (hx fs)

/-- A run whose one step is the sequencer's and faults. -/
theorem plays_sequencer_fault (ha : s.cfg.Admissible) (hh : s.held = false) {f : Fault}
    (hx : sequencerStep { s with script := [] } = .fault f) : s.plays [.sequencer] = .fault f := by
  have hstep : agentStep .sequencer { s with script := [] } = .fault f := (if_neg (by simp [hh])).trans hx
  simp only [State.plays, List.length_cons, Host.Core.run, step_scripted ha, hstep]
  rfl

/-- A task that is done in one step. -/
theorem Leads.task (ha : s.cfg.Admissible) (hh : s.held = false) {k : Task} {ts : List Task} (ht : s.todo = k :: ts)
    (hx : ∀ fs, runTask k { s with todo := ts, script := fs } = .next { t with script := fs }) : Leads [.sequencer] s t :=
  .sequencer ha hh fun fs => (sequencerStep_of_task (s := { s with script := fs }) ht).trans (hx fs)

/-- What `seq` does next, in one step. -/
theorem Leads.advance (ha : s.cfg.Admissible) (hh : s.held = false) (ht : s.todo = [])
    (hx : ∀ fs, advance { s with script := fs } = .next { t with script := fs }) : Leads [.sequencer] s t :=
  .sequencer ha hh fun fs => (sequencerStep_of_nothing_left (s := { s with script := fs }) ht).trans (hx fs)

end

/-! ### Reading queued bytes (40_transport.md rule R134) -/

/-- The queue holds the bytes, oldest first. -/
def State.Queued (s : State) (bs : List Byte) : Prop := s.tail < s.cfg.rxCap ∧ s.free ≤ s.cfg.rxCap ∧ s.unread = bs

/-- The state after RECV has returned the byte with no XON due. -/
def received (b : Byte) (s : State) : State :=
  { s with got := s.got ++ [b], tail := (s.tail + 1) % s.cfg.rxCap, free := s.free + 1 }

section
variable {s : State} {b : Byte} {bs : List Byte}

theorem State.CommandReady.isQueued {c : Byte} (h : s.CommandReady c bs) : s.Queued (c :: bs) :=
  ⟨h.inv.tail_lt, h.inv.free_le, h.queued⟩

theorem State.Queued.room (h : s.Queued (b :: bs)) : s.cfg.rxCap - s.free = bs.length + 1 := by
  have := congrArg List.length h.2.2
  simpa [State.unread] using this

theorem State.Queued.filled (h : s.Queued (b :: bs)) : queueFilled s = true := by
  have := h.room
  rw [queueFilled_iff]
  omega

/-- The byte at `tail` is the oldest, and behind it stands the rest of the queue. -/
theorem State.Queued.oldest (h : s.Queued (b :: bs)) : s.rxbuf.getD s.tail 0 = b ∧ (received b s).Queued bs := by
  obtain ⟨htail, hfree, hunread⟩ := h
  have hroom := State.Queued.room ⟨htail, hfree, hunread⟩
  rw [State.unread, hroom, List.range_succ_eq_map, List.map_cons, List.map_map, List.cons.injEq] at hunread
  obtain ⟨hb, hbs⟩ := hunread
  rw [Nat.add_zero, Nat.mod_eq_of_lt htail] at hb
  refine ⟨hb, Nat.mod_lt _ (by omega), show s.free + 1 ≤ s.cfg.rxCap by omega, ?_⟩
  rw [← hbs, State.unread, show (received b s).cfg.rxCap - (received b s).free = bs.length from
    show s.cfg.rxCap - (s.free + 1) = bs.length by omega]
  refine List.map_congr_left fun k _ => ?_
  show s.rxbuf.getD (((s.tail + 1) % s.cfg.rxCap + k) % s.cfg.rxCap) 0 = s.rxbuf.getD ((s.tail + (k + 1)) % s.cfg.rxCap) 0
  rw [Nat.mod_add_mod, Nat.add_assoc, Nat.add_comm 1 k]

/-- RECV with a byte queued and the channel not paused returns the byte in one step. -/
theorem execRecv_received (h : s.Queued (b :: bs)) (hp : s.paused = false) : execRecv s = .next (received b s) := by
  have hxon : xonDue (dequeue (enterSection s)) = false := by simp [xonDue, hp]
  rw [execRecv, if_pos h.filled, finishReceive, hxon, received, ← h.oldest.1]
  rfl

/-- Where the sequencer's next step is RECV, it reads the oldest byte. -/
theorem Leads.recv (ha : s.cfg.Admissible) (hh : s.held = false) (ht : s.todo = []) (hp : s.paused = false)
    (h : s.Queued (b :: bs)) (hx : ∀ fs, Machine.advance { s with script := fs } = execRecv { s with script := fs }) :
    Leads [.sequencer] s (received b s) :=
  .advance ha hh ht fun fs => (hx fs).trans (execRecv_received (s := { s with script := fs }) h hp)

end

/-! ### Sending (40_transport.md rules R130, R138) -/

theorem sendRounds_succ (n : Nat) : sendRounds (n + 1) = [.sequencer, .transmitter] ++ sendRounds n := by
  simp [sendRounds, List.replicate_succ]

/-- The bytes still to be sent go out, one a round. -/
theorem Leads.sends {s : State} {bs : List Byte} {ts : List Task} (ha : s.cfg.Admissible) (hh : s.held = false)
    (htx : s.txReady = true) (ht : s.todo = bs.map (fun b => Task.run (.send b)) ++ ts) :
    Leads (sendRounds bs.length) s { s with todo := ts, wireOut := s.wireOut ++ bs } := by
  induction bs generalizing s with
  | nil =>
    obtain rfl : s.todo = ts := ht
    rw [List.append_nil]
    exact fun _ => rfl
  | cons b bs ih =>
    have hsend : Leads [.sequencer] s (emit b { s with todo := bs.map (fun b => Task.run (.send b)) ++ ts }) :=
      .task ha hh ht fun _ => congrArg Host.Outcome.next (if_pos htx)
    rw [List.length_cons, sendRounds_succ]
    refine (hsend.trans (.transmitter ha)).trans ?_
    have hrest := ih (s := { s with
      todo := bs.map (fun b => Task.run (.send b)) ++ ts, wireOut := s.wireOut ++ [b], txReady := true }) ha hh rfl rfl
    rw [List.append_assoc] at hrest
    exact htx ▸ hrest

/-- A whole reply that is started with nothing left to do goes out, one byte a round. -/
theorem Leads.reply {s u : State} {b : Byte} {bs : List Byte} (ha : s.cfg.Admissible) (hh : s.held = false)
    (ht : s.todo = []) (hu : u.cfg = s.cfg ∧ u.held = false) (htx : u.txReady = true)
    (hx : ∀ fs, Machine.advance { s with script := fs } = startReply (b :: bs) { u with script := fs }) :
    Leads (sendRounds (bs.length + 1)) s { u with wireOut := u.wireOut ++ b :: bs } := by
  have hfirst : Leads [.sequencer] s (emit b (pushSends bs u)) :=
    .advance ha hh ht fun fs => (hx fs).trans (startReply_ready (s := { u with script := fs }) htx b bs)
  have ha' : u.cfg.Admissible := hu.1 ▸ ha
  rw [sendRounds_succ]
  refine (hfirst.trans (.transmitter ha')).trans ?_
  have hrest := Leads.sends (s := { u with
    todo := bs.map (fun b => Task.run (.send b)) ++ u.todo, wireOut := u.wireOut ++ [b], txReady := true }) (bs := bs)
    (ts := u.todo) ha' hu.2 rfl rfl
  rw [List.append_assoc] at hrest
  exact htx ▸ hrest

end Sys2Proof.Machine
end

section
/-! SUPPORT. The whole runs of the commands that reply and go back to the command loop (30_encoding.md rules R105 to R109;
44_command_sequencer.md rules R221, R230 to R235). -/

namespace Sys2Proof.Machine

/-! ### The start of a command -/

section
variable {s : State} {c : Byte} {rest : List Byte}

theorem State.CommandReady.advance_reads (h : s.CommandReady c rest) (fs : List Event) :
    advance { s with script := fs } = execRecv { s with script := fs } :=
  (advance_of_awaitCmd (s := { s with script := fs }) h.seq).trans
    (commandLoop_of_nothing_read (s := { s with script := fs }) h.active h.got)

theorem State.CommandReady.leads_received (h : s.CommandReady c rest) : Leads [.sequencer] s (received c s) :=
  .recv h.inv.admissible h.notHeld h.todo h.notPaused h.isQueued h.advance_reads

/-- With the command byte in hand the command loop runs the command of it. -/
theorem State.CommandReady.advance_dispatches (h : s.CommandReady c rest) (fs : List Event) :
    advance { received c s with script := fs } =
      exec (decodeCmd c) { received c s with cmd := c, got := [], script := fs } := by
  have hg : s.got ++ [c] = [c] := by rw [h.got, List.nil_append]
  exact (advance_of_awaitCmd (s := { received c s with script := fs }) h.seq).trans
    (commandLoop_of_byte (s := { received c s with script := fs }) h.active hg)

/-- A command that moves `seq` and replies sends its reply and is back in the command loop. -/
theorem State.CommandReady.plays_reply (h : s.CommandReady c rest) {q : SeqState} (hq : q = .info ∨ q = .fuses ∨ q = .unknown)
    {r b : Byte} {bs : List Byte} {n : Nat} (hn : bs.length + 1 = n)
    (hx : ∀ fs, exec (decodeCmd c) { received c s with cmd := c, got := [], script := fs } =
      startReply (b :: bs) { received c s with cmd := c, reply := r, got := [], seq := q, script := fs }) :
    s.plays ([.sequencer] ++ sendRounds n ++ [.sequencer]) = .next { s with
      script := [], cmd := c, reply := r, tail := (s.tail + 1) % s.cfg.rxCap, free := s.free + 1,
      wireOut := s.wireOut ++ b :: bs } := by
  subst n
  have hreply := Leads.reply (s := received c s) h.inv.admissible h.notHeld h.todo ⟨rfl, h.notHeld⟩ h.txReady
    (u := { received c s with cmd := c, reply := r, got := [], seq := q })
    fun fs => (h.advance_dispatches fs).trans (hx fs)
  have hback := Leads.advance (t := { received c s with
      cmd := c, reply := r, got := [], seq := .awaitCmd, wireOut := s.wireOut ++ b :: bs })
    (s := { received c s with cmd := c, reply := r, got := [], seq := q, wireOut := s.wireOut ++ b :: bs })
    h.inv.admissible h.notHeld h.todo (by rcases hq with rfl | rfl | rfl <;> exact fun _ => rfl)
  refine ((h.leads_received.trans hreply).trans hback).plays.trans (congrArg Host.Outcome.next ?_)
  simp only [received, h.seq, h.got]

end

/-- With the transmit register free an unknown command is answered by the reply of its status byte and itself
(44_command_sequencer.md rule R235). -/
theorem exec_cmdUnknown_ready {s : State} (ht : s.txReady = true) (c : Byte) :
    exec (.cmdUnknown c) s = startReply [0x20, c] { s with reply := 0x20, seq := .unknown } :=
  (congrArg Host.Outcome.next (if_pos ht)).trans
    (startReply_ready (s := { s with reply := 0x20, seq := .unknown }) ht 0x20 [c]).symm

/-- Settles O36: each reply is the one its command starts. -/
theorem commandReplies : Obligations.CommandReplies := by
  refine fun s rest => ⟨fun h => ?_, fun h => ?_, fun c hq hf hi hu hv h => ?_⟩
  · refine (h.plays_reply (.inl rfl) (r := s.reply) (b := BitVec.ofNat 8 s.cfg.version.length)
      (bs := s.cfg.version ++ [2, loByte s.cfg.bootStart, hiByte s.cfg.bootStart]) ?_ fun _ => rfl).trans ?_
    · rw [List.length_append, Nat.add_assoc, Nat.add_comm]; rfl
    · simp only [List.append_assoc, List.cons_append, List.nil_append]
  · exact h.plays_reply (.inr (.inl rfl)) (r := s.reply) (b := s.cfg.fuses.f0)
      (bs := [s.cfg.fuses.f1, s.cfg.fuses.f2, s.cfg.fuses.f3]) rfl fun _ => rfl
  · have hc : decodeCmd c = .cmdUnknown c := decodeCmd_of_notALetter (notALetter_iff.mpr ⟨hq, hf, hi, hu, hv⟩)
    exact h.plays_reply (.inr (.inr rfl)) rfl fun fs =>
      hc ▸ exec_cmdUnknown_ready (s := { received c s with cmd := c, got := [], script := fs }) h.txReady c

/-! ### Verify -/

/-- The state after the Verify command has been read and dispatched. -/
def verifying (s : State) : State := { received 0x76 s with cmd := 0x76, got := [], seq := .verify }

/-- The state after the three request bytes have been read too. -/
def requested (b0 b1 b2 : Byte) (s : State) : State :=
  { s with
    cmd := 0x76
    seq := .verify
    got := [b0, b1, b2]
    tail := ((((s.tail + 1) % s.cfg.rxCap + 1) % s.cfg.rxCap + 1) % s.cfg.rxCap + 1) % s.cfg.rxCap
    free := s.free + 4 }

theorem requested_eq (b0 b1 b2 : Byte) (s : State) :
    requested b0 b1 b2 s = received b2 (received b1 (received b0 (verifying s))) := by
  simp only [requested, received, verifying, List.nil_append, List.cons_append]

section
variable {s : State} {b b0 b1 b2 : Byte} {rest : List Byte}

/-- In VERIFY a request byte is read in one step while one is missing. -/
theorem Leads.verifyByte (ha : s.cfg.Admissible) (hh : s.held = false) (ht : s.todo = []) (hp : s.paused = false)
    (hs : s.seq = .verify) (hg : s.got.length < 3) (h : s.Queued (b :: rest)) : Leads [.sequencer] s (received b s) :=
  .recv ha hh ht hp h fun fs =>
    (advance_of_verify (s := { s with script := fs }) hs).trans (verifyPhase_reading (s := { s with script := fs }) hg)

/-- Five steps read and dispatch the Verify command and read its three request bytes (rule R230). -/
theorem State.CommandReady.leads_requested (h : s.CommandReady 0x76 (b0 :: b1 :: b2 :: rest)) :
    Leads (List.replicate 5 .sequencer) s (requested b0 b1 b2 s) ∧ (requested b0 b1 b2 s).Queued rest := by
  have ha := h.inv.admissible
  have hdispatch : Leads [.sequencer] (received 0x76 s) (verifying s) := .advance ha h.notHeld h.todo h.advance_dispatches
  have q0 : (verifying s).Queued (b0 :: b1 :: b2 :: rest) := h.isQueued.oldest.2
  have q1 := q0.oldest.2
  have q2 := q1.oldest.2
  have r0 := Leads.verifyByte (s := verifying s) ha h.notHeld h.todo h.notPaused rfl (by decide : 0 < 3) q0
  have r1 := Leads.verifyByte (s := received b0 (verifying s)) ha h.notHeld h.todo h.notPaused rfl (by decide : 1 < 3) q1
  have r2 := Leads.verifyByte (s := received b1 (received b0 (verifying s))) ha h.notHeld h.todo h.notPaused rfl
    (by decide : 2 < 3) q2
  rw [requested_eq]
  exact ⟨(((h.leads_received.trans hdispatch).trans r0).trans r1).trans r2, q2.oldest.2⟩

/-- A reply that may be empty: an empty one takes a round too. -/
theorem Leads.replyOrNothing {u : State} {bs : List Byte} (ha : s.cfg.Admissible) (hh : s.held = false)
    (ht : s.todo = []) (hu : u.cfg = s.cfg ∧ u.held = false) (htx : u.txReady = true)
    (hx : ∀ fs, Machine.advance { s with script := fs } = startReply bs { u with script := fs }) :
    Leads (sendRounds (max bs.length 1)) s { u with wireOut := u.wireOut ++ bs } := by
  cases bs with
  | nil =>
    have hround := (Leads.advance ha hh ht hx).trans (.transmitter (hu.1 ▸ ha))
    rw [List.append_nil]
    exact htx ▸ hround
  | cons b bs =>
    rw [List.length_cons, Nat.max_eq_left (Nat.le_add_left ..)]
    exact .reply ha hh ht hu htx hx

/-- The state after the request has been answered and the command loop entered again (rules R105, R106). -/
def answered (b0 b1 b2 : Byte) (s : State) : State :=
  { requested b0 b1 b2 s with
    vaddr := joinBytes b0 b1
    vcount := b2
    got := []
    seq := .awaitCmd
    wireOut := s.wireOut ++ requestedBytes s.flash b0 b1 b2 }

/-- A request whose read succeeds is answered, and the command loop entered again. -/
theorem State.CommandReady.leads_answered (h : s.CommandReady 0x76 (b0 :: b1 :: b2 :: rest)) (hr : s.rwwEnabled = true)
    (hin : ∀ k < b2.toNat, (256 * b0.toNat + b1.toNat + k) % 65536 < s.cfg.flashSize) :
    Leads (sendRounds (max b2.toNat 1) ++ [.sequencer]) (requested b0 b1 b2 s) (answered b0 b1 b2 s) := by
  have ha := h.inv.admissible
  have hlen : (requestedBytes s.flash b0 b1 b2).length = b2.toNat := by simp [requestedBytes]
  have hreply := Leads.replyOrNothing (s := requested b0 b1 b2 s) ha h.notHeld h.todo
    (u := push (.goto .awaitCmd) { requested b0 b1 b2 s with vaddr := joinBytes b0 b1, vcount := b2, got := [] })
    ⟨rfl, h.notHeld⟩ h.txReady (bs := requestedBytes s.flash b0 b1 b2)
    fun fs => verifyPhase_reply (s := { requested b0 b1 b2 s with script := fs }) rfl (memRead_request hr hin)
  rw [hlen] at hreply
  have hback := Leads.task (t := answered b0 b1 b2 s) (k := .goto .awaitCmd) (ts := s.todo)
    (s := { push (.goto .awaitCmd) { requested b0 b1 b2 s with vaddr := joinBytes b0 b1, vcount := b2, got := [] } with
      wireOut := s.wireOut ++ requestedBytes s.flash b0 b1 b2 })
    ha h.notHeld rfl fun _ => rfl
  exact hreply.trans hback

/-- A request whose read faults ends the run with the fault once it is read (log entry 13). -/
theorem State.CommandReady.plays_fault (h : s.CommandReady 0x76 (b0 :: b1 :: b2 :: rest)) {f : Fault}
    (hm : memRead (joinBytes b0 b1) b2.toNat s = .error f) :
    (requested b0 b1 b2 s).plays [.sequencer] = .fault f ∧ s.plays (List.replicate 6 .sequencer) = .fault f := by
  have hfault := plays_sequencer_fault (s := requested b0 b1 b2 s) h.inv.admissible h.notHeld
    ((sequencerStep_of_nothing_left (s := { requested b0 b1 b2 s with script := [] }) h.todo).trans
      (verifyPhase_fault (s := { requested b0 b1 b2 s with script := [] }) rfl hm))
  exact ⟨hfault, (h.leads_requested.1 [.sequencer]).trans hfault⟩

end

/-- Settles O35: five steps read the request, then the phase faults or its reply goes out. -/
theorem verifyReply : Obligations.VerifyReply := by
  intro s b0 b1 b2 rest h
  obtain ⟨hread, hqueued⟩ := h.leads_requested
  refine ⟨fun hr hin => ⟨{ answered b0 b1 b2 s with script := [] }, ?_, hqueued.2.2, ?_⟩,
    { requested b0 b1 b2 s with script := [] }, hread.plays, rfl, rfl,
    fun hr ho => h.plays_fault (memRead_request_outside hr ho), fun hr => h.plays_fault (memRead_disabled hr ..)⟩
  · rw [List.append_assoc]
    exact (hread.trans (h.leads_answered hr hin)).plays
  · simp only [answered, requested, h.seq, h.got]
    rfl

end Sys2Proof.Machine
end

section
/-! SUPPORT. The Transport's operations and the receive agent (40_transport.md rules R130 to R134, R138, R139; 60_exceptions.md
rule R271): what SEND, RECV and RXISR answer, and what a step of the receive agent leaves alone. -/

namespace Sys2Proof.Machine

/-! ### SEND, the transmitter, the flash engine and the peer -/

/-- Settles O14: one test of the transmit register. -/
theorem sendCompletes : Obligations.SendCompletes := fun _ _ =>
  ⟨fun ht => congrArg Host.Outcome.next (transmit_ready ht ..), fun ht => congrArg Host.Outcome.next (transmit_busy ht ..)⟩

@[simp] theorem afterChoice_wireIn (s : State) : (afterChoice s).wireIn = s.wireIn := by
  obtain ⟨_, _, e⟩ := afterChoice_eq s; rw [e]

@[simp] theorem afterChoice_rxHw (s : State) : (afterChoice s).rxHw = s.rxHw := by
  obtain ⟨_, _, e⟩ := afterChoice_eq s; rw [e]

theorem step_of_event {s : State} (ha : s.cfg.Admissible) {e : Event} (he : nextEvent s = e) :
    step s = agentStep e (afterChoice s) := by
  rw [step_of_admissible ha, he]

/-- The peer's step by the room of the receiver (rule R139). -/
theorem peerStep_room {s : State} (h : s.rxHw.length < s.cfg.rxHwDepth) (b : Byte) :
    peerStep b s = { s with wireIn := s.wireIn ++ [b], rxHw := s.rxHw ++ [b] } := if_pos h

theorem peerStep_full {s : State} (h : s.cfg.rxHwDepth ≤ s.rxHw.length) (b : Byte) :
    peerStep b s = { s with wireIn := s.wireIn ++ [b] } := if_neg (Nat.not_lt_of_le h)

/-- Settles O20, agent by agent; the peer's step by whether the receiver has room. -/
theorem hardwareAgentSteps : Obligations.HardwareAgentSteps := by
  refine fun s ha => ⟨step_of_event ha, step_of_event ha, fun b he hroom => ?_, fun b he hfull => ?_, step_of_event ha⟩
  · rw [step_of_event ha he, agentStep, peerStep_room (by simpa using hroom), afterChoice_wireIn, afterChoice_rxHw]
  · rw [step_of_event ha he, agentStep, peerStep_full (by simpa using hfull), afterChoice_wireIn]

/-! ### RECV (rules R131, R134) -/

section
variable {s : State}

theorem xonDue_iff : xonDue s = true ↔ s.paused = true ∧ s.cfg.xonFree ≤ s.free := by simp [xonDue]

theorem execRecv_filled (h : s.free < s.cfg.rxCap) : execRecv s = .next (finishReceive (dequeue (enterSection s))) :=
  if_pos ((queueFilled_iff s).2 h)

theorem execRecv_empty (h : s.cfg.rxCap ≤ s.free) : execRecv s = .next (push (.run .recv) s) :=
  if_neg (mt (queueFilled_iff s).1 (Nat.not_lt_of_le h))

theorem finishReceive_quiet (h : ¬(s.paused = true ∧ s.cfg.xonFree ≤ s.free)) : finishReceive s = leaveSection s :=
  if_neg (mt xonDue_iff.1 h)

theorem finishReceive_xon (hp : s.paused = true) (hf : s.cfg.xonFree ≤ s.free) (ht : s.txReady = true) :
    finishReceive s = leaveSection (emitXon s) :=
  (if_pos (xonDue_iff.2 ⟨hp, hf⟩)).trans (if_pos ht)

theorem finishReceive_held (hp : s.paused = true) (hf : s.cfg.xonFree ≤ s.free) (ht : s.txReady = false) :
    finishReceive s = push (.run .ctlXon) (push (.run .csLeave) s) :=
  (if_pos (xonDue_iff.2 ⟨hp, hf⟩)).trans (if_neg (by simp [ht]))

end

/-- Settles O15, by whether a byte is queued, and then by what the end of RECV's section does. -/
theorem recvCompletes : Obligations.RecvCompletes := by
  refine fun s => ⟨fun hq hn => ?_, fun hq hp hf ht => ?_, fun hq hp hf ht => ?_, execRecv_empty⟩
  · exact (execRecv_filled hq).trans (congrArg _ (finishReceive_quiet (s := dequeue (enterSection s)) hn))
  · exact (execRecv_filled hq).trans (congrArg _ (finishReceive_xon (s := dequeue (enterSection s)) hp hf ht))
  · exact (execRecv_filled hq).trans (congrArg _ (finishReceive_held (s := dequeue (enterSection s)) hp hf ht))

/-! ### RXISR (rules R131 to R133) -/

section
variable {s : State} {b : Byte} {bs : List Byte}

theorem xoffDue_iff : xoffDue s = true ↔ s.free ≤ s.cfg.xoffFree ∧ s.paused = false := by simp [xoffDue]

theorem execRxisr_enabled (hI : s.I = true) (hr : s.rxHw = b :: bs) :
    execRxisr s = .next (returnFromReceiveInterrupt (enqueue b { s with rxHw := bs })) := by
  rw [execRxisr, if_pos ((receiveEnabled_iff s).2 ⟨hI, by simp [hr]⟩), takeReceiveInterrupt, hr]

theorem execRxisr_disabled (h : s.I = false ∨ s.rxHw = []) : execRxisr s = .next (push (.run .rxisr) s) := by
  refine if_neg fun he => ?_
  obtain ⟨hI, hr⟩ := (receiveEnabled_iff s).1 he
  rcases h with h | h
  · rw [hI] at h; cases h
  · exact hr h

theorem returnFromReceiveInterrupt_quiet (h : ¬(s.free ≤ s.cfg.xoffFree ∧ s.paused = false)) :
    returnFromReceiveInterrupt s = { s with held := false } :=
  if_neg (mt xoffDue_iff.1 h)

theorem returnFromReceiveInterrupt_xoff (hf : s.free ≤ s.cfg.xoffFree) (hp : s.paused = false) (ht : s.txReady = true) :
    returnFromReceiveInterrupt s = emitXoff { s with held := false } :=
  (if_pos (xoffDue_iff.2 ⟨hf, hp⟩)).trans (if_pos ht)

theorem returnFromReceiveInterrupt_held (hf : s.free ≤ s.cfg.xoffFree) (hp : s.paused = false) (ht : s.txReady = false) :
    returnFromReceiveInterrupt s = { s with held := true } :=
  (if_pos (xoffDue_iff.2 ⟨hf, hp⟩)).trans (if_neg (by simp [ht]))

/-- Storing a byte writes neither the parameters, nor the flow-control flag, nor the transmit side. -/
theorem enqueue_transmitSide (b : Byte) (s : State) :
    (enqueue b s).cfg = s.cfg ∧ (enqueue b s).paused = s.paused ∧ (enqueue b s).txReady = s.txReady ∧
      (enqueue b s).wireOut = s.wireOut ∧ (enqueue b s).flowOut = s.flowOut := by
  unfold enqueue
  split <;> exact ⟨rfl, rfl, rfl, rfl, rfl⟩

end

/-- Settles O16: where RXISR is enabled, `u` is the state with the byte stored, and the end of the handler does the rest. -/
theorem rxisrCompletes : Obligations.RxisrCompletes := by
  refine fun s => ⟨fun b bs u hI hr hfull hroom => ?_, execRxisr_disabled⟩
  have hu : enqueue b { s with rxHw := bs } = u := by
    by_cases hf : s.free = 0
    · exact (enqueue_full (s := { s with rxHw := bs }) hf b).trans (hfull hf).symm
    · exact (enqueue_room (s := { s with rxHw := bs }) hf b).trans (hroom hf).symm
  have hx : exec .rxisr s = .next (returnFromReceiveInterrupt u) := hu ▸ execRxisr_enabled hI hr
  obtain ⟨hcfg, hpaused, hready, hwire, hflow⟩ : u.cfg = s.cfg ∧ u.paused = s.paused ∧ u.txReady = s.txReady ∧
      u.wireOut = s.wireOut ∧ u.flowOut = s.flowOut := hu ▸ enqueue_transmitSide b { s with rxHw := bs }
  rw [hx, ← hcfg, ← hpaused, ← hready, ← hwire, ← hflow]
  exact ⟨fun hn => congrArg _ (returnFromReceiveInterrupt_quiet hn),
    fun hf hp ht => congrArg _ (returnFromReceiveInterrupt_xoff hf hp ht),
    fun hf hp ht => congrArg _ (returnFromReceiveInterrupt_held hf hp ht)⟩

/-! ### The frame of the receive agent (rules R132, R271) -/

/-- From `s` to `t` the receiver, the ring, the flow-control flag, the transmit side and the held flag are all that changes. -/
def TransportOnly (s t : State) : Prop :=
  t = { s with
    rxHw := t.rxHw, rxbuf := t.rxbuf, head := t.head, tail := t.tail, free := t.free, paused := t.paused,
    txReady := t.txReady, wireOut := t.wireOut, flowOut := t.flowOut, held := t.held }

theorem TransportOnly.trans {s t u : State} (h : TransportOnly s t) (h' : TransportOnly t u) : TransportOnly s u :=
  Eq.trans h' (congrArg (fun v : State => { v with
    rxHw := u.rxHw, rxbuf := u.rxbuf, head := u.head, tail := u.tail, free := u.free, paused := u.paused,
    txReady := u.txReady, wireOut := u.wireOut, flowOut := u.flowOut, held := u.held }) h)

theorem takeReceiveInterrupt_transportOnly (s : State) : TransportOnly s (takeReceiveInterrupt s) := by
  unfold takeReceiveInterrupt
  split
  · rfl
  · unfold enqueue
    split <;> rfl

theorem returnFromReceiveInterrupt_transportOnly (s : State) : TransportOnly s (returnFromReceiveInterrupt s) := by
  rcases returnFromReceiveInterrupt_cases s with ⟨-, -, e⟩ | ⟨-, -, e⟩ | ⟨-, e⟩ <;> rw [e] <;> rfl

theorem receiveStep_transportOnly {s t : State} (hx : agentStep .receive s = .next t) : TransportOnly s t := by
  rcases agentStep_next hx with
    ⟨⟨⟩, -⟩ | ⟨⟨⟩, -⟩ | ⟨-, -, rfl⟩ | ⟨-, -, -, -, rfl⟩ | ⟨-, -, -, rfl⟩ | ⟨⟨⟩, -⟩ | ⟨⟨⟩, -⟩ | ⟨b, ⟨⟩, -⟩ | ⟨⟨⟩, -⟩
  · exact returnFromReceiveInterrupt_transportOnly s
  · exact (takeReceiveInterrupt_transportOnly s).trans (returnFromReceiveInterrupt_transportOnly _)
  · rfl

/-- Settles O50: the step is the handler taking a byte, the handler going on, or nothing. -/
theorem receiveTouchesOnlyTransport : Obligations.ReceiveTouchesOnlyTransport := by
  intro s t he hx
  obtain ⟨-, hx⟩ := step_next hx
  rw [he] at hx
  exact receiveStep_transportOnly hx

end Sys2Proof.Machine
end

section
/-! SUPPORT. The receive queue as the sequence of its unread bytes (40_transport.md rules R133, R137). -/

namespace Sys2Proof.Machine

/-! ### The slots of the ring, counted from `tail` -/

/-- The slot of the `k`-th unread byte, the oldest being the 0th. -/
def State.slot (s : State) (k : Nat) : Nat := (s.tail + k) % s.cfg.rxCap

theorem unread_eq (s : State) :
    s.unread = (List.range (s.cfg.rxCap - s.free)).map fun k => s.rxbuf.getD (s.slot k) 0 := rfl

theorem unread_length (s : State) : s.unread.length = s.cfg.rxCap - s.free := by simp [unread_eq]

/-- The slots of one round of the ring are different. -/
theorem State.slot_inj {s : State} {j k : Nat} (hj : j < s.cfg.rxCap) (hk : k < s.cfg.rxCap) : s.slot j = s.slot k ↔ j = k :=
  ⟨fun e => (Nat.ModEq.add_left_cancel' s.tail e).eq_of_lt_of_lt hj hk, fun e => e ▸ rfl⟩

section
variable {s : State} (h : s.Inv)
include h

theorem State.Inv.slot_zero : s.slot 0 = s.tail := Nat.mod_eq_of_lt h.tail_lt

/-- `head` is the slot behind the youngest unread byte. -/
theorem State.Inv.head_eq_slot : s.head = s.slot (s.cfg.rxCap - s.free) := by
  have hround : s.head + s.free + (s.cfg.rxCap - s.free) = s.head + s.cfg.rxCap := by
    have := h.free_le
    omega
  rw [State.slot, ← h.ring, Nat.mod_add_mod, hround, Nat.add_mod_right, Nat.mod_eq_of_lt h.head_lt]

/-- On a full queue `head` is the slot of the oldest unread byte. -/
theorem State.Inv.head_eq_tail (hf : s.free = 0) : s.head = s.tail := by
  rw [← h.ring, hf, Nat.add_zero, Nat.mod_eq_of_lt h.head_lt]

/-- A byte stored in one slot is read there and leaves the others alone. -/
theorem State.Inv.getD_set_slot {j k : Nat} (hj : j < s.cfg.rxCap) (hk : k < s.cfg.rxCap) (b : Byte) :
    (s.rxbuf.set (s.slot j) b).getD (s.slot k) 0 = if j = k then b else s.rxbuf.getD (s.slot k) 0 := by
  have hin : s.slot j < s.rxbuf.length := by
    rw [h.rxbuf_length]
    exact Nat.mod_lt _ h.rxCap_pos
  simp only [List.getD_eq_getElem?_getD, List.getElem?_set, State.slot_inj hj hk, if_pos hin]
  split_ifs
  · rfl
  · rfl

/-! ### What storing a byte does to the unread bytes -/

/-- With room the byte is stored behind the unread bytes. -/
theorem State.Inv.unread_enqueue_room (hf : s.free ≠ 0) (b : Byte) : (enqueue b s).unread = s.unread ++ [b] := by
  have hle := h.free_le
  have hcount : s.cfg.rxCap - (s.free - 1) = (s.cfg.rxCap - s.free) + 1 := by omega
  have hyoungest : s.cfg.rxCap - s.free < s.cfg.rxCap := by omega
  have hslots : (enqueue b s).unread = (List.range (s.cfg.rxCap - (s.free - 1))).map
      fun k => (s.rxbuf.set s.head b).getD (s.slot k) 0 := by
    rw [enqueue_room hf]; rfl
  rw [hslots, hcount, List.range_succ, List.map_append, List.map_singleton, h.head_eq_slot,
    h.getD_set_slot hyoungest hyoungest, if_pos rfl, unread_eq]
  congr 1
  refine List.map_congr_left fun k hk => ?_
  have hk : k < s.cfg.rxCap - s.free := List.mem_range.1 hk
  rw [h.getD_set_slot hyoungest (by omega), if_neg (by omega)]

/-- On a full queue the byte takes the oldest one's slot and becomes the youngest. -/
theorem State.Inv.unread_enqueue_full (hf : s.free = 0) (b : Byte) : (enqueue b s).unread = s.unread.tail ++ [b] := by
  obtain ⟨n, hn⟩ : ∃ n, s.cfg.rxCap = n + 1 := ⟨_, (Nat.succ_pred_eq_of_pos h.rxCap_pos).symm⟩
  have hnext : ∀ k, ((s.tail + 1) % s.cfg.rxCap + k) % s.cfg.rxCap = s.slot (k + 1) := fun k => by
    rw [State.slot, Nat.mod_add_mod, Nat.add_assoc, Nat.add_comm 1 k]
  have hslots : (enqueue b s).unread = (List.range (n + 1)).map
      fun k => (s.rxbuf.set s.head b).getD (s.slot (k + 1)) 0 := by
    rw [enqueue_full hf, ← hn]
    simp only [State.unread, hf, hnext, Nat.sub_zero]
  have hlast : s.slot (n + 1) = s.slot 0 := by
    rw [← hn, State.slot, Nat.add_mod_right, State.slot, Nat.add_zero]
  have holder : s.unread.tail = (List.range n).map fun k => s.rxbuf.getD (s.slot (k + 1)) 0 := by
    rw [unread_eq, hf, Nat.sub_zero, hn, List.range_succ_eq_map, List.map_cons, List.tail_cons, List.map_map]
    rfl
  rw [hslots, holder, h.head_eq_tail hf, ← h.slot_zero, List.range_succ, List.map_append, List.map_singleton, hlast,
    h.getD_set_slot h.rxCap_pos h.rxCap_pos, if_pos rfl]
  congr 1
  refine List.map_congr_left fun k hk => ?_
  have hk : k < n := List.mem_range.1 hk
  rw [h.getD_set_slot h.rxCap_pos (by omega), if_neg (by omega)]

end

/-! ### The ends of RXISR and RECV leave the queue alone -/

/-- From `s` to `t` the ring, its indices and counter, the receiver, and what RECV has returned are unchanged; with the ring, so
are the unread bytes. -/
structure KeepsQueue (s t : State) : Prop where
  rxbuf : t.rxbuf = s.rxbuf
  head : t.head = s.head
  tail : t.tail = s.tail
  free : t.free = s.free
  rxHw : t.rxHw = s.rxHw
  got : t.got = s.got
  unread : t.unread = s.unread

theorem returnFromReceiveInterrupt_keepsQueue (s : State) : KeepsQueue s (returnFromReceiveInterrupt s) := by
  rcases returnFromReceiveInterrupt_cases s with ⟨-, -, e⟩ | ⟨-, -, e⟩ | ⟨-, e⟩ <;> rw [e] <;>
    exact ⟨rfl, rfl, rfl, rfl, rfl, rfl, rfl⟩

theorem finishReceive_keepsQueue (s : State) : KeepsQueue s (finishReceive s) := by
  rcases finishReceive_cases s with ⟨-, -, e⟩ | ⟨-, -, e⟩ | ⟨-, e⟩ <;> rw [e] <;>
    exact ⟨rfl, rfl, rfl, rfl, rfl, rfl, rfl⟩

/-! ### Overrun, and first in, first out -/

/-- Settles O17: the byte is stored on the full queue, and the end of the handler leaves the queue alone. -/
theorem overrunOverwritesOldest : Obligations.OverrunOverwritesOldest := by
  intro s t b bs h hI hr hf hx
  have hmeet := h.head_eq_tail hf
  have ht := Host.Outcome.next.inj ((execRxisr_enabled hI hr).symm.trans hx)
  have hstored := enqueue_full (s := { s with rxHw := bs }) hf b
  have hk : KeepsQueue (enqueue b { s with rxHw := bs }) t := ht ▸ returnFromReceiveInterrupt_keepsQueue _
  have hbuf : t.rxbuf = s.rxbuf.set s.tail b := by rw [hk.rxbuf, hstored, ← hmeet]
  refine ⟨hmeet, hbuf, ?_, ?_, ?_, ?_, ?_, ?_⟩
  · have hread := h.getD_set_slot h.rxCap_pos h.rxCap_pos b
    rwa [h.slot_zero, if_pos rfl, ← hbuf] at hread
  · rw [hk.head, hstored]
  · rw [hk.tail, hstored]
  · rw [hk.free, hstored]; exact hf
  · rw [unread_length, hf, Nat.sub_zero]
  · rw [hk.unread]; exact (h.receiverTaken hr).unread_enqueue_full hf b

/-- Settles O18: RXISR with room by what storing does, RECV by the queue's oldest byte. -/
theorem queueIsFirstInFirstOut : Obligations.QueueIsFirstInFirstOut := by
  refine fun s h => ⟨fun b bs hI hr hf => ?_, fun hq => ?_, ?_⟩
  · have hk := returnFromReceiveInterrupt_keepsQueue (enqueue b { s with rxHw := bs })
    refine ⟨_, execRxisr_enabled hI hr, hk.unread.trans ((h.receiverTaken hr).unread_enqueue_room hf b), hk.rxHw.trans ?_⟩
    rw [enqueue_room (s := { s with rxHw := bs }) hf]
  · have hk := finishReceive_keepsQueue (dequeue (enterSection s))
    obtain ⟨b, us, hus⟩ : ∃ b us, s.unread = b :: us := List.exists_cons_of_length_pos (by rw [unread_length]; omega)
    have hqueued : s.Queued (b :: us) := ⟨h.tail_lt, h.free_le, hus⟩
    obtain ⟨hb, -, -, hrest⟩ := hqueued.oldest
    refine ⟨_, b, execRecv_filled hq, ?_, ?_⟩
    · rw [hk.unread, hus, ← hrest]; rfl
    · rw [hk.got, ← hb]; rfl
  · rw [unread_length]
    exact Nat.add_sub_cancel' h.free_le

end Sys2Proof.Machine
end

section
/-! SUPPORT. The step in which a command is dispatched (44_command_sequencer.md rules R222, R223, R230 to R235), and the body
phase of an upload (rules R225 to R229). -/

namespace Sys2Proof.Machine

/-! ### Commands -/

/-- Settles O34: a reply of the command is started, or its status byte is sent before what is left of it. -/
theorem commandsComplete : Obligations.CommandsComplete := by
  refine fun s c => ⟨rfl, rfl, fun ht => ⟨?_, ?_, ?_, ?_⟩, fun ht => ⟨?_, ?_, ?_, ?_⟩⟩
  · exact startReply_ready (s := { s with seq := .info }) ht ..
  · exact startReply_ready (s := { s with seq := .fuses }) ht ..
  · exact congrArg _ (transmit_ready (s := { s with seq := .quit, reply := 0x40 }) ht ..)
  · exact congrArg _ (transmit_ready
      (s := { s with seq := .unknown, reply := 0x20, todo := .run (.send c) :: s.todo }) ht ..)
  · exact startReply_busy (s := { s with seq := .info }) ht ..
  · exact startReply_busy (s := { s with seq := .fuses }) ht ..
  · exact congrArg _ (transmit_busy (s := { s with seq := .quit, reply := 0x40 }) ht ..)
  · exact congrArg _ (transmit_busy
      (s := { s with seq := .unknown, reply := 0x20, todo := .run (.send c) :: s.todo }) ht ..)

/-! ### The body phase -/

/-- The status byte of an error is the one of the table (60_exceptions.md rule R266). -/
theorem encode_statusOfError (ready : Byte) (e : BlockError) : encode ready (statusOfError e) = [errorByte e] := by
  cases e with
  | hexDigit f => cases f <;> rfl
  | framing | checksum | unknownCommand | notImplemented => rfl

theorem spaceOf_statusOfError (e : BlockError) : spaceOf (statusOfError e) = .sts := by
  unfold statusOfError
  split <;> rfl

/-- The status byte of an error is computed and sent, or waits (rule R229). -/
theorem exec_statusOfError (e : BlockError) (s : State) : exec (statusOfError e) s =
    .next (transmit (errorByte e) (.run (statusOfError e)) { s with reply := errorByte e }) := by
  obtain ⟨b, hb, hx⟩ := exec_sts (spaceOf_statusOfError e) 0
  rw [encode_statusOfError] at hb
  obtain rfl : errorByte e = b := by simpa using hb
  exact hx s

@[simp] theorem afterChoice_hdr (s : State) : (afterChoice s).hdr = s.hdr := by
  obtain ⟨_, _, e⟩ := afterChoice_eq s; rw [e]

section
variable {s : State} {n : Byte}

theorem advance_of_uploadBody (hq : s.seq = .uploadBody) :
    advance s = if s.got.length < bodyLength s.hdr then exec .recv s else bodyPhase s := by
  rw [advance, hq]

/-- The body is read on while a character of it is missing (rule R225, decision D14). -/
theorem advance_body_reading (hq : s.seq = .uploadBody) (hn : decByte s.hdr.n1 s.hdr.n0 = some n)
    (hg : s.got.length < 2 * n.toNat + 2) : advance s = exec .recv s := by
  rw [advance_of_uploadBody hq, if_pos (by rwa [bodyLength_of hn])]

/-- With all characters read they are decoded, and the error is reported or the record's action run (rule R225). -/
theorem advance_body_read (hq : s.seq = .uploadBody) (hn : decByte s.hdr.n1 s.hdr.n0 = some n) {body rest : List Byte}
    (hg : s.got = body ++ rest) (hb : body.length = 2 * n.toNat + 2) :
    (∀ e, decRec s.hdr body = .error e → advance s =
      abortUpload e (returnResult (.error e) { s with body := body, got := rest })) ∧
    (∀ r, decRec s.hdr body = .ok r → advance s =
      exec (instrOfRecord s.hdr r) (returnResult (.record r) { s with body := body, got := rest, record := r })) := by
  have hl : bodyLength s.hdr = body.length := by rw [bodyLength_of hn, hb]
  have htake : s.got.take (bodyLength s.hdr) = body := by rw [hg, hl, List.take_left]
  have hdrop : s.got.drop (bodyLength s.hdr) = rest := by rw [hg, hl, List.drop_left]
  have hread : ¬s.got.length < bodyLength s.hdr := by rw [hg, hl, List.length_append]; omega
  rw [advance_of_uploadBody hq, if_neg hread, bodyPhase, htake, hdrop]
  exact ⟨fun e he => by rw [he], fun r hr => by rw [hr]⟩

end

/-- The action of a DATA or END_OF_FILE record (rules R98, R225). -/
theorem instrOfRecord_data (h : Header) {r : HexRecord} (ht : r.recordType = 0x00) :
    instrOfRecord h r = .recData r.address r.payload := if_pos ht

theorem instrOfRecord_eof (h : Header) {r : HexRecord} (ht : r.recordType = 0x01) :
    instrOfRecord h r = .recEof r.address r.payload := by
  rw [instrOfRecord, if_neg (by rw [ht]; decide), if_pos ht]

/-- Settles O43: the phase reads, or decodes the whole body and reports the error or runs the record. -/
theorem Settled.bodyPhase : Obligations.BodyPhase := by
  intro s n h ht hq hn
  rw [step_of_nothing_left h ht]
  have hq' : (afterChoice s).seq = .uploadBody := (afterChoice_seq s).trans hq
  have hn' : decByte (afterChoice s).hdr.n1 (afterChoice s).hdr.n0 = some n := by rwa [afterChoice_hdr]
  refine ⟨fun hg => advance_body_reading hq' hn' (by rwa [afterChoice_got]), fun body rest hg hb => ?_⟩
  obtain ⟨herror, hrecord⟩ := advance_body_read hq' hn' ((afterChoice_got s).trans hg) hb
  refine ⟨fun e he => ?_, fun r hr h0 => ?_, fun r hr h1 => ?_⟩
  · rw [← afterChoice_hdr] at he
    rw [herror e he, abortUpload, exec_statusOfError]
    refine ⟨fun htx => ?_, fun htx => ⟨statusOfError e, encode_statusOfError .., spaceOf_statusOfError e, ?_⟩⟩
    · rw [transmit_ready (by simpa using htx)]
      simp only [emit, push, returnResult, afterChoice_todo, afterChoice_wireOut, ht]
    · rw [transmit_busy (by simpa using htx)]
      simp only [push, returnResult, afterChoice_todo, ht]
  · rw [← afterChoice_hdr] at hr
    rw [hrecord r hr, instrOfRecord_data _ h0]
    rfl
  · rw [← afterChoice_hdr] at hr
    rw [hrecord r hr, instrOfRecord_eof _ h1]
    rfl

end Sys2Proof.Machine
end

section
/-! SUPPORT. The flow-control flag agrees with the last flow-control byte sent (40_transport.md rule R137), because entry, which
clears the flag, happens once (70_reset_and_hazards.md rules R300, R302). -/

namespace Sys2Proof.Machine

/-! ### The flow-control flag, entry apart -/

/-- Every elementary update but entry's keeps the flag in agreement: XOFF and XON write it together with the record. -/
theorem Micro.keeps_flowAgrees {E : Prop} (hE : ¬E) {s t : State} (h : s.FlowAgrees) (hm : Micro E s t) : t.FlowAgrees := by
  cases hm with
  | xoff => exact ⟨fun _ => List.getLast?_concat .., fun _ => rfl⟩
  | xon => exact ⟨nofun, fun e => by rw [emitXon, List.getLast?_concat] at e; cases e⟩
  | entered _ he => exact absurd he hE
  | received _ b bs =>
    obtain ⟨-, hpaused, -, -, hflow⟩ := enqueue_transmitSide b { s with rxHw := bs }
    rw [State.FlowAgrees, hpaused, hflow]
    exact h
  | anchored a _ _ ha => obtain ⟨-, -, rfl⟩ := anchor_ok ha; exact h
  | erased _ _ he => obtain ⟨-, -, -, rfl⟩ := flashErase_ok he; exact h
  | filled n _ _ hf => obtain ⟨f, rfl, -⟩ := fillWords_next hf; exact h
  | programmed _ _ hp => obtain ⟨-, -, -, rfl⟩ := flashProgram_ok hp; exact h
  | peer b => rcases peerStep_cases b s with ⟨-, e⟩ | ⟨-, e⟩ <;> rw [e] <;> exact h
  | _ => exact h

/-! ### Nothing leads back to RESET -/

/-- From `c` to `c'` the sequencer has not come back to RESET, and no task that leads there was left. -/
structure Control.Onward (c c' : Control) : Prop where
  seq : c'.seq = .reset → c.seq = .reset
  left : .goto .reset ∈ c'.todo → .goto .reset ∈ c.todo

section
variable {c c' c'' : Control}

theorem Control.Onward.refl (c : Control) : c.Onward c := ⟨id, id⟩

theorem Control.Onward.trans (h : c.Onward c') (h' : c'.Onward c'') : c.Onward c'' := ⟨h.seq ∘ h'.seq, h.left ∘ h'.left⟩

/-- Replies and transitions of the table are put before what is left, and `seq` moves elsewhere than to RESET. -/
theorem Control.Onward.extend (c : Control) {q : SeqState} (hq : q = c.seq ∨ q ≠ .reset) {ts : List Task}
    (hts : ∀ k ∈ ts, leftover k = true) : c.Onward { c with seq := q, todo := ts ++ c.todo } where
  seq e := by
    rcases hq with hq | hq
    · exact hq.symm.trans e
    · exact absurd e hq
  left hm := by
    rcases List.mem_append.1 hm with hm | hm
    · exact absurd (hts _ hm) (by decide)
    · exact hm

theorem Control.Follows.onward (f : c.Follows c') : c.Onward c' where
  seq e := f.seq.symm.trans e
  left hm := by
    obtain ⟨ks, hks, e⟩ := f.left
    rcases List.mem_append.1 (e ▸ hm) with hm | hm
    · exact absurd (hks _ hm) (by decide)
    · exact hm

end

section
variable {s t : State}

theorem ne_reset_of_transition {p q : SeqState} (h : (p, q) ∈ transitions) : q ≠ .reset := by
  rintro rfl
  exact not_transition_to_reset p h

theorem exec_onward {i : Instr} (hx : exec i s = .next t) : s.control.Onward t.control := by
  have keeps : ∀ {j : Instr} {u : State}, keepsSeq j = true → exec j u = .next t → u.control.Onward t.control :=
    fun {j _} hj h => ((exec_effect hj h).follows (k := .run j) hj).onward
  cases hs : keepsSeq i with
  | true => exact keeps hs hx
  | false =>
    rcases space_of_not_keepsSeq hs with rfl | hi | hi
    · rw [← Host.Outcome.next.inj hx]
      exact ⟨nofun, nofun⟩
    · obtain ⟨q, ts, hq, -, hts, hx'⟩ := exec_command hi s
      have hon := Control.Onward.extend s.control (.inr (ne_reset_of_transition hq))
        fun k hk => leftover_of_isReplyTask (hts k hk)
      rcases hx' with hx' | ⟨j, hj, hx'⟩
      · obtain rfl := Host.Outcome.next.inj (hx'.symm.trans hx)
        exact hon
      · exact hon.trans (keeps (keepsSeq_of_isWork (isWork_of_isReply hj)) (hx'.symm.trans hx))
    · obtain ⟨q, ts, j, hq, hts, hj, -, hx'⟩ := exec_record hi s
      have hon := Control.Onward.extend s.control (.inl rfl) (ts := ts ++ [.goto q])
        (List.forall_mem_append.2 ⟨fun k hk => leftover_of_isReplyTask (hts k hk),
          List.forall_mem_singleton.2 (leftover_goto hq)⟩)
      rw [List.append_assoc] at hon
      exact hon.trans (keeps (keepsSeq_of_isWork hj) (hx'.symm.trans hx))

theorem runTask_onward {k : Task} (hk : k ≠ .goto .reset) (hx : runTask k s = .next t) : s.control.Onward t.control := by
  cases k with
  | run i => exact exec_onward hx
  | fetch sp bs =>
    simp only [runTask, runEncoded] at hx
    split at hx
    · exact exec_onward hx
    · cases hx
  | goto q =>
    rw [← Host.Outcome.next.inj hx]
    exact ⟨fun e => absurd (congrArg Task.goto e) hk, id⟩
  | flushErase | flushProgram | flushEnable | retire | stageRest =>
    exact ((runTask_effect rfl hx).follows rfl).onward

/-- What the sequencer prepares leads on. -/
theorem Prepared.onward {s' : State} (hp : Prepared s s') : s.control.Onward s'.control :=
  ⟨fun e => absurd e hp.seq_ne_reset, fun hm => absurd (hp.leftover _ hm) (by decide)⟩

theorem advance_onward (hr : s.seq ≠ .reset) (ht : s.todo = []) (hx : advance s = .next t) :
    s.control.Onward t.control := by
  have ha := advance_cases ht
  generalize advance s = o at ha hx
  cases ha with
  | finished => cases hx; exact .refl _
  | handsOff => exact { exec_onward hx with }
  | enters hq => exact absurd hq hr
  | reads => exact exec_onward hx
  | moves s' hp => cases hx; exact hp.onward
  | runs i s' _ hp => exact hp.onward.trans (exec_onward hx)
  | faults => cases hx

/-! ### Entry happens once -/

theorem entryOnce_of_past (hq : t.seq ≠ .reset) (hn : .goto .reset ∉ t.todo) : t.EntryOnce :=
  ⟨fun e => absurd e hq, fun e => absurd e hq, hn⟩

/-- Entry under way leaves only the ready byte and the step to the command loop. -/
theorem entryOnce_of_entering (he : t.control.Entering) (hq : t.seq = .reset) : t.EntryOnce := by
  have htodo : t.todo = [.goto .awaitCmd] ∨ t.todo = [.run .ctlReady, .goto .awaitCmd] := he hq
  refine ⟨fun _ hnil => ?_, fun _ => .inr htodo, ?_⟩
  · rcases htodo with e | e <;> rw [hnil] at e <;> cases e
  · rcases htodo with e | e <;> rw [e] <;> decide

theorem advance_of_reset (hq : s.seq = .reset) : advance s = if s.cfg.enable then entry s else exec .handoff s := by
  rw [advance, hq]

theorem sequencerStep_entryOnce (h : s.EntryOnce) (hx : sequencerStep s = .next t) : t.EntryOnce := by
  by_cases hq : s.seq = .reset
  · rcases h.during hq with ht | ht | ht
    · rw [sequencerStep_of_nothing_left ht, advance_of_reset hq] at hx
      split at hx
      · have he := entry_effect ht hx
        exact entryOnce_of_entering (he.entering_ready rfl) (he.seq_eq.trans hq)
      · rw [← Host.Outcome.next.inj hx]
        exact entryOnce_of_past nofun nofun
    · rw [sequencerStep_of_task ht] at hx
      rw [← Host.Outcome.next.inj hx]
      exact entryOnce_of_past nofun nofun
    · rw [sequencerStep_of_task ht] at hx
      have he := exec_effect (i := .ctlReady) rfl hx
      exact entryOnce_of_entering (he.entering_ready rfl) (he.seq_eq.trans hq)
  · have hon : s.control.Onward t.control := by
      unfold sequencerStep at hx
      split at hx
      · exact advance_onward hq ‹_› hx
      · rename_i k ts ht
        have hk : k ≠ .goto .reset := fun e => h.after (by simp [ht, e])
        have hpop : s.control.Onward (State.control { s with todo := ts }) :=
          ⟨id, fun hm => show _ ∈ s.todo from ht ▸ List.mem_cons_of_mem k hm⟩
        exact hpop.trans (runTask_onward hk hx)
    exact entryOnce_of_past (mt hon.seq hq) (mt hon.left h.after)

/-! ### The step before entry -/

/-- From `s` to `t` nothing that entry and the flow-control flag turn on has changed. -/
structure KeepsFlow (s t : State) : Prop where
  control : t.control = s.control
  held : t.held = s.held
  paused : t.paused = s.paused
  flowOut : t.flowOut = s.flowOut

/-- With interrupts masked and no handler held, every agent but the sequencer leaves the flow control alone. -/
theorem agentStep_masked {e : Event} (hI : s.I = false) (hh : s.held = false) (hx : agentStep e s = .next t) :
    sequencerStep s = .next t ∨ KeepsFlow s t := by
  rcases agentStep_next hx with
    ⟨-, -, rfl⟩ | ⟨-, -, hq⟩ | ⟨-, hheld, -⟩ | ⟨-, -, hen, -⟩ | ⟨-, -, -, rfl⟩ | ⟨-, rfl⟩ | ⟨-, rfl⟩ | ⟨b, -, rfl⟩ | ⟨-, rfl⟩
  · exact .inr ⟨rfl, rfl, rfl, rfl⟩
  · exact .inl hq
  · rw [hh] at hheld; cases hheld
  · rw [((receiveEnabled_iff s).1 hen).1] at hI; cases hI
  · exact .inr ⟨rfl, rfl, rfl, rfl⟩
  · exact .inr ⟨rfl, rfl, rfl, rfl⟩
  · exact .inr ⟨rfl, rfl, rfl, rfl⟩
  · rcases peerStep_cases b s with ⟨-, e⟩ | ⟨-, e⟩ <;> rw [e] <;> exact .inr ⟨rfl, rfl, rfl, rfl⟩
  · exact .inr ⟨rfl, rfl, rfl, rfl⟩

/-- Entry and the hand-off from RESET leave a channel that is not paused so, and send no flow-control byte. -/
theorem advance_of_reset_flow (hq : s.seq = .reset) (hp : s.paused = false) (hx : advance s = .next t) :
    t.paused = s.paused ∧ t.flowOut = s.flowOut := by
  rw [advance_of_reset hq] at hx
  split at hx
  · rw [hp]
    exact (exec_frame hx).flow rfl
  · exact (exec_frame hx).flow rfl

/-- With entry still to come every agent's step keeps both: the sequencer's is entry or the hand-off, and no other writes the
flag. -/
theorem agentStep_beforeEntry {e : Event} (hf : s.FlowAgrees) (he : s.EntryOnce) (hq : s.seq = .reset) (ht : s.todo = [])
    (hx : agentStep e s = .next t) : t.FlowAgrees ∧ t.EntryOnce := by
  obtain ⟨hI, hh, hp⟩ := he.before hq ht
  rcases agentStep_masked hI hh hx with hx | hk
  · refine ⟨?_, sequencerStep_entryOnce he hx⟩
    rw [sequencerStep_of_nothing_left ht] at hx
    obtain ⟨hpaused, hflow⟩ := advance_of_reset_flow hq hp hx
    rwa [State.FlowAgrees, hpaused, hflow]
  · have hseq : t.seq = s.seq := congrArg Control.seq hk.control
    have htodo : t.todo = s.todo := congrArg Control.todo hk.control
    have hI' : t.I = s.I := congrArg Control.I hk.control
    refine ⟨by rwa [State.FlowAgrees, hk.paused, hk.flowOut], ?_, ?_, ?_⟩
    · rw [hseq, htodo, hI', hk.held, hk.paused]; exact he.before
    · rw [hseq, htodo]; exact he.during
    · rw [htodo]; exact he.after

/-- With entry begun every agent's step keeps it the only one. -/
theorem agentStep_entryOnce {e : Event} (he : s.EntryOnce) (hb : ¬(s.seq = .reset ∧ s.todo = []))
    (hx : agentStep e s = .next t) : t.EntryOnce := by
  rcases agentStep_control hx with hc | ⟨-, hx⟩
  · have hseq : t.seq = s.seq := congrArg Control.seq hc
    have htodo : t.todo = s.todo := congrArg Control.todo hc
    refine ⟨?_, ?_, ?_⟩
    · rw [hseq, htodo]; exact fun hq ht => absurd ⟨hq, ht⟩ hb
    · rw [hseq, htodo]; exact he.during
    · rw [htodo]; exact he.after
  · exact sequencerStep_entryOnce he hx

end

/-- Settles O54: before entry the step is entry itself or leaves flow control alone; later steps are made of updates that keep
the flag in agreement, and none of them leads back to RESET. -/
theorem flowFlagAgrees : Obligations.FlowFlagAgrees := by
  intro s t hf he hx
  obtain ⟨es, n, e⟩ := afterChoice_eq s
  obtain ⟨-, hagent⟩ := step_next hx
  rw [e] at hagent
  have he' : State.EntryOnce { s with script := es, tick := n } := { he with }
  by_cases hb : s.seq = .reset ∧ s.todo = []
  · exact agentStep_beforeEntry (s := { s with script := es, tick := n }) hf he' hb.1 hb.2 hagent
  · exact ⟨step_keeps (fun _ _ => Micro.keeps_flowAgrees hb) hf hx, agentStep_entryOnce he' hb hagent⟩

end Sys2Proof.Machine
end

section
/-! SUPPORT. The Hex-Record Decoder's answers (41_hex_decoder.md): what its operations do to the state, which of several faults of
a record is reported, and what becomes of a valid line under re-encoding and under another checksum. -/

namespace Sys2Proof.Machine

/-! ### The operations (rules R161, R163, R164; log entry 2) -/

theorem exec_decbyte (c1 c0 : Byte) (s : State) : exec (.decbyte c1 c0) s = .next { s with res := byteResult c1 c0 } := rfl

theorem exec_dechdr (h : Header) (s : State) : exec (.dechdr h) s = .next { s with res := headerResult h } := rfl

theorem exec_decrec (h : Header) (body : List Byte) (s : State) :
    exec (.decrec h body) s = .next { s with res := recordResult h body } := rfl

theorem byteResult_some {c1 c0 b : Byte} (hb : decByte c1 c0 = some b) : byteResult c1 c0 = .byte b := by
  rw [byteResult, hb]

theorem byteResult_none {c1 c0 : Byte} (hb : decByte c1 c0 = none) : byteResult c1 c0 = .error (.hexDigit .pair) := by
  rw [byteResult, hb]

theorem headerResult_ok {h : Header} {n t : Byte} (hh : decHdr h = .ok (n, t)) : headerResult h = .header n t := by
  rw [headerResult, hh]

theorem headerResult_error {h : Header} {e : BlockError} (hh : decHdr h = .error e) : headerResult h = .error e := by
  rw [headerResult, hh]

theorem recordResult_ok {h : Header} {body : List Byte} {r : HexRecord} (hr : decRec h body = .ok r) :
    recordResult h body = .record r := by
  rw [recordResult, hr]

theorem recordResult_error {h : Header} {body : List Byte} {e : BlockError} (hr : decRec h body = .error e) :
    recordResult h body = .error e := by
  rw [recordResult, hr]

/-- Settles O22: each operation writes `res` alone, and its result is the decoding's. -/
theorem decoderOperationsComplete : Obligations.DecoderOperationsComplete := by
  refine fun s c1 c0 h body => ⟨fun b hb => ?_, fun hb => ?_, fun n t hh => ?_, fun e hh => ?_, fun r hr => ?_, fun e hr => ?_⟩
  · rw [exec_decbyte, byteResult_some hb]
  · rw [exec_decbyte, byteResult_none hb]
  · rw [exec_dechdr, headerResult_ok hh]
  · rw [exec_dechdr, headerResult_error hh]
  · rw [exec_decrec, recordResult_ok hr]
  · rw [exec_decrec, recordResult_error hr]

/-! ### Payload characters (rule R164) -/

/-- A payload with a character that is no digit does not decode. -/
theorem decPairs_eq_none {n k : Nat} {cs : List Byte} (hk : k < n)
    (hb : decByte (cs.getD (2 * k) 0) (cs.getD (2 * k + 1) 0) = none) : decPairs n cs = none := by
  cases hp : decPairs n cs with
  | none => rfl
  | some q =>
    have hs := decPairs_getD (p := q.1) (rest := q.2) hp hk
    rw [hb] at hs
    contradiction

/-- A payload whose 8-bit fields are the bytes of `p` decodes to `p`, and the characters after it are left. -/
theorem decPairs_of_getD {p cs : List Byte} (hl : 2 * p.length ≤ cs.length)
    (hp : ∀ k < p.length, decByte (cs.getD (2 * k) 0) (cs.getD (2 * k + 1) 0) = some (p.getD k 0)) :
    decPairs p.length cs = some (p, cs.drop (2 * p.length)) := by
  induction p generalizing cs with
  | nil => rfl
  | cons b p ih =>
    match cs, hl, hp with
    | c1 :: c0 :: cs, hl, hp =>
      have hb : decByte c1 c0 = some b := hp 0 (Nat.zero_lt_succ _)
      have htail : decPairs p.length cs = some (p, cs.drop (2 * p.length)) :=
        ih (by simp at hl; omega) fun k hk => hp (k + 1) (Nat.succ_lt_succ hk)
      rw [List.length_cons, decPairs, hb, htail]
      rfl
    | [_], hl, _ | [], hl, _ => simp only [List.length_cons, List.length_nil] at hl; omega

/-- The last two characters of a body, which hold the checksum. -/
theorem drop_eq_getD_pair {cs : List Byte} {m : Nat} (hl : cs.length = m + 2) :
    cs.drop m = [cs.getD m 0, cs.getD (m + 1) 0] := by
  rw [List.drop_eq_getElem_cons (by omega), List.drop_eq_getElem_cons (by omega), List.drop_eq_nil_of_le (by omega),
    List.getD_eq_getElem _ _ (by omega), List.getD_eq_getElem _ _ (by omega)]

/-! ### The earliest fault (rule R165, decision D10) -/

section
variable {h : Header} {body : List Byte}

theorem decHdr_badMarker (hm : h.marker ≠ startMarker) : decHdr h = .error .framing := if_pos hm

theorem decRec_badMarker (hm : h.marker ≠ startMarker) : decRec h body = .error .framing := if_pos hm

theorem decHdr_badByteCount (hm : h.marker = startMarker) (hn : decByte h.n1 h.n0 = none) :
    decHdr h = .error (.hexDigit .byteCount) := by
  rw [decHdr, if_neg (not_not_intro hm), hn]

theorem decRec_badByteCount (hm : h.marker = startMarker) (hn : decByte h.n1 h.n0 = none) :
    decRec h body = .error (.hexDigit .byteCount) := by
  rw [decRec, if_neg (not_not_intro hm), hn]

variable {n : Byte} (hm : h.marker = startMarker) (hn : decByte h.n1 h.n0 = some n)
include hm hn

theorem decHdr_badRecordType (ht : decByte h.t1 h.t0 = none) : decHdr h = .error (.hexDigit .recordType) := by
  rw [decHdr, if_neg (not_not_intro hm), hn, ht]

theorem decRec_eq_decFields : decRec h body = decFields h n body := by
  rw [decRec, if_neg (not_not_intro hm), hn]

theorem decRec_badAddress (ha : dec16 h.a3 h.a2 h.a1 h.a0 = none) : decRec h body = .error (.hexDigit .address) := by
  rw [decRec_eq_decFields hm hn, decFields, ha]

variable {a : Word16} (ha : dec16 h.a3 h.a2 h.a1 h.a0 = some a)
include ha

theorem decRec_badRecordType (ht : decByte h.t1 h.t0 = none) : decRec h body = .error (.hexDigit .recordType) := by
  rw [decRec_eq_decFields hm hn, decFields, ha, ht]

variable {t : Byte} (ht : decByte h.t1 h.t0 = some t)
include ht

theorem decRec_badPayload (hp : decPairs n.toNat body = none) : decRec h body = .error (.hexDigit .payload) := by
  rw [decRec_eq_decFields hm hn, decFields, ha, ht, hp]

theorem decRec_badChecksumDigit {p rest : List Byte} {c1 c0 : Byte}
    (hp : decPairs n.toNat body = some (p, c1 :: c0 :: rest)) (hc : decByte c1 c0 = none) :
    decRec h body = .error (.hexDigit .checksum) := by
  rw [decRec_eq_decFields hm hn]
  simp only [decFields, ha, ht, hp, hc]

end

/-- Settles O10: each clause is the branch of the decoding that its premises lead to. -/
theorem decoderErrorPrecedence : Obligations.DecoderErrorPrecedence := by
  refine fun h body => ⟨fun hm => ⟨decHdr_badMarker hm, decRec_badMarker hm⟩,
    fun hm hn => ⟨decHdr_badByteCount hm hn, decRec_badByteCount hm hn⟩, fun n hm hn =>
      ⟨decHdr_badRecordType hm hn, fun t => decHdr_of hm hn, fun hl => ⟨decRec_badAddress hm hn, fun a ha =>
        ⟨decRec_badRecordType hm hn ha, fun t ht => ⟨fun ⟨k, hk, hb⟩ => ?_, fun p hpl hp => ?_⟩⟩⟩⟩⟩
  · exact decRec_badPayload hm hn ha ht (decPairs_eq_none hk hb)
  · have hpairs : decPairs n.toNat body = some (p, [body.getD (2 * n.toNat) 0, body.getD (2 * n.toNat + 1) 0]) := by
      rw [← drop_eq_getD_pair hl]
      rw [← hpl] at hp hl ⊢
      exact decPairs_of_getD (by omega) hp
    refine ⟨decRec_badChecksumDigit hm hn ha ht hpairs, fun c hc => ?_⟩
    rw [decRec_of hm hn ha ht hpairs hc]
    have hsum := recordSum_eq_zero_iff_total ⟨n, a, t, p, c⟩
    exact ⟨fun hbad => if_neg (mt hsum.mp hbad), fun hgood => if_pos (hsum.mpr hgood)⟩

/-! ### Valid lines (rules R167, R168) -/

/-- Settles O8: a valid header and body are the ones their record is written with. -/
theorem recordRoundTrip : Obligations.RecordRoundTrip := by
  intro h body r hl hr
  obtain ⟨rfl, rfl⟩ := decRec_ok_line hl hr
  exact recordLine_eq r

/-- A record DECREC returns has as many payload bytes as it announces, and its sum is zero (rule R164). -/
theorem decRec_ok_valid {h : Header} {body : List Byte} {r : HexRecord} (hr : decRec h body = .ok r) :
    r.payload.length = r.byteCount.toNat ∧
    recordSum r.byteCount r.address r.recordType r.payload r.checksum = 0 := by
  obtain ⟨-, -, -, -, _, _, _, hp, -, hs⟩ := decRec_ok hr
  exact ⟨(hexPairs_of_decPairs hp).2, hs⟩

/-- The payload characters of a written body. -/
theorem lineBody_take {r : HexRecord} (hl : r.payload.length = r.byteCount.toNat) :
    (lineBody r).take (2 * r.byteCount.toNat) = r.payload.flatMap hexPair :=
  List.take_left' (by rw [hexPairs_length, hl])

/-- A written line with another checksum byte is a checksum error: only one checksum makes the sum zero (rule R168). -/
theorem decRec_line_otherChecksum {r : HexRecord} (hl : r.payload.length = r.byteCount.toNat)
    (hs : recordSum r.byteCount r.address r.recordType r.payload r.checksum = 0) {c : Byte} (hc : c ≠ r.checksum) :
    decRec (lineHeader r) (r.payload.flatMap hexPair ++ hexPair c) = .error .checksum := by
  have hline := decRec_line (r := { r with checksum := c }) hl
  rw [if_neg fun h0 => hc ((recordSum_eq_zero_iff.mp h0).trans (recordSum_eq_zero_iff.mp hs).symm)] at hline
  exact hline

/-- A written line with a checksum character that is no digit is reported before the sum is taken (rules R165, R168). -/
theorem decRec_line_badChecksumDigit {r : HexRecord} (hl : r.payload.length = r.byteCount.toNat) {c1 c0 : Byte}
    (hc : decByte c1 c0 = none) :
    decRec (lineHeader r) (r.payload.flatMap hexPair ++ [c1, c0]) = .error (.hexDigit .checksum) :=
  decRec_badChecksumDigit rfl (decByte_hexPair _) (dec16_of (decByte_hexPair _) (decByte_hexPair _)) (decByte_hexPair _)
    (hl ▸ decPairs_hexPairs r.payload [c1, c0]) hc

/-- Settles O9: a valid line is a written one, and its perturbed body is the same payload with other checksum characters. -/
theorem perturbedChecksum : Obligations.PerturbedChecksum := by
  intro h body r hl hr
  obtain ⟨hpl, hs⟩ := decRec_ok_valid hr
  obtain ⟨rfl, rfl⟩ := decRec_ok_line hl hr
  rw [lineBody_take hpl]
  refine ⟨fun c hc => ?_, fun c1 c0 => decRec_line_badChecksumDigit hpl⟩
  have herror := decRec_line_otherChecksum hpl hs hc
  exact ⟨herror, fun s => by rw [exec_decrec, recordResult_error herror]⟩

end Sys2Proof.Machine
end

section
/-! SUPPORT. FLUSH on a free port (43_flash_programmer.md rules R200 to R204, R210): what each of its parts answers, and the run
in which the flash engine ends each of its waits. -/

namespace Sys2Proof.Machine

/-! ### The page FLUSH writes -/

/-- The words of the staging buffer, in the order FLUSH fills them in (20_memory.md rule R69). -/
def State.pageWords (s : State) : List Word16 := (List.range (s.cfg.pageSize / 2)).map (pageWord s.pagebuf)

/-- Program memory with the staged page's place erased. -/
def State.erasedFlash (s : State) : Memory :=
  Memory.writeBytes s.flash s.pageStart.toNat (List.replicate s.cfg.pageSize 0xFF)

/-- The state after a whole FLUSH (rule R200): the page erased and programmed, the port free, the section readable. -/
def State.pageFlushed (s : State) : State :=
  { s with
    spmBusy := false
    rwwEnabled := true
    fill := s.pageWords
    flash := Memory.writeBytes s.erasedFlash s.pageStart.toNat s.pagebuf }

theorem list_eq_of_getD {α : Type} {l l' : List α} {d : α} (hl : l.length = l'.length)
    (h : ∀ k < l.length, l.getD k d = l'.getD k d) : l = l' := by
  refine List.ext_getElem hl fun k h1 h2 => ?_
  have := h k h1
  rwa [List.getD_eq_getElem l d h1, List.getD_eq_getElem l' d h2] at this

section
variable {s : State}

theorem State.Inv.flashSize_le (h : s.Inv) : s.cfg.flashSize ≤ 65536 := by
  obtain ⟨-, -, -, -, -, -, -, -, hfs, -⟩ := h.admissible
  exact hfs

theorem State.Inv.bootStart_le (h : s.Inv) : s.cfg.bootStart.toNat ≤ s.cfg.flashSize := by
  obtain ⟨-, -, -, -, -, -, -, -, -, hboot, -⟩ := h.admissible
  exact hboot

theorem State.Inv.pageSize_even (h : s.Inv) : s.cfg.pageSize % 2 = 0 := by
  obtain ⟨-, -, -, -, -, -, heven, -⟩ := h.admissible
  exact heven

/-! The continuation and the critical sections play no part in the relations between registers. -/

theorem State.Inv.push (h : s.Inv) (k : Task) : (push k s).Inv := { h with }

theorem State.Inv.enterSection (h : s.Inv) : (enterSection s).Inv := { h with }

theorem State.Inv.leaveSection (h : s.Inv) : (leaveSection s).Inv := { h with }

theorem State.pageWords_getD {k : Nat} (hk : k < s.cfg.pageSize / 2) : s.pageWords.getD k 0 = pageWord s.pagebuf k := by
  simp [State.pageWords, List.getD_eq_getElem?_getD, hk]

/-- On a free port FLUSH fills the latch with the staged page's words (rules R201, R203). -/
theorem fillWords_page (h : s.Inv) (hb : s.spmBusy = false) :
    fillWords (s.cfg.pageSize / 2) 0 s = .ok { s with fill := s.pageWords } := by
  obtain ⟨f, hf, hl, hc⟩ := fillWords_content (s.cfg.pageSize / 2) 0 hb h.pageSize_even h.pageStart_aligned rfl
    h.fill_length
  have hlen : f.length = s.cfg.pageSize / 2 := hl.trans h.fill_length
  have hwords : f = s.pageWords := list_eq_of_getD (d := 0) (by simp [hlen, State.pageWords]) fun k hk => by
    rw [hc k (hlen ▸ hk), if_pos (Nat.zero_le k), State.pageWords_getD (hlen ▸ hk)]
  rw [hf, hwords]

theorem State.erasedFlash_read (h : s.Inv) (x : Nat) : Memory.read s.erasedFlash x =
    if s.pageStart.toNat ≤ x ∧ x < s.pageStart.toNat + s.cfg.pageSize then 0xFF else Memory.read s.flash x := by
  rw [State.erasedFlash, Memory.read_writeBytes h.flash_wf, List.length_replicate]
  split
  · rename_i hx
    simp [List.getD_eq_getElem?_getD, show x - s.pageStart.toNat < s.cfg.pageSize by omega]
  · rfl

/-- Programming an erased page with the staged words gives the staging buffer (rule R203). -/
theorem programmed_bytes (h : s.Inv) :
    (List.range s.cfg.pageSize).map
      (fun k => Memory.read s.erasedFlash (s.pageStart.toNat + k) &&& fillByte s.pageWords k) = s.pagebuf := by
  refine list_eq_of_getD (d := 0) (by simp [h.pagebuf_length]) fun k hk => ?_
  have hk : k < s.cfg.pageSize := by simpa using hk
  have hfill : fillByte s.pageWords k = s.pagebuf.getD k 0 :=
    fillByte_of_words h.pageSize_even hk fun j hj => State.pageWords_getD hj
  simp only [List.getD_eq_getElem?_getD, List.getElem?_map, List.getElem?_range hk, Option.map_some, Option.getD_some]
  rw [State.erasedFlash_read h, if_pos (by omega), hfill, List.getD_eq_getElem?_getD]
  exact BitVec.allOnes_and

/-- After FLUSH the page in flash is the staging buffer and no other byte has changed (rule R200). -/
theorem State.pageFlushed_read (h : s.Inv) (x : Nat) : Memory.read s.pageFlushed.flash x =
    if s.pageStart.toNat ≤ x ∧ x < s.pageStart.toNat + s.cfg.pageSize then s.pagebuf.getD (x - s.pageStart.toNat) 0
    else Memory.read s.flash x := by
  have hread := Memory.read_writeBytes (Memory.wf_writeBytes h.flash_wf s.pageStart.toNat
    (List.replicate s.cfg.pageSize 0xFF)) s.pageStart.toNat s.pagebuf x
  rw [h.pagebuf_length] at hread
  refine hread.trans ?_
  split
  · rfl
  · rename_i hx
    exact (State.erasedFlash_read h x).trans (if_neg hx)

theorem State.Inv.pageFlushed (h : s.Inv) (hlt : s.pageStart.toNat < s.cfg.flashSize) : s.pageFlushed.Inv := by
  have herased := h.pageWritten hlt (bs := List.replicate s.cfg.pageSize 0xFF) List.length_replicate false true
  have hwritten := herased.pageWritten hlt h.pagebuf_length false true
  exact { hwritten with fill_length := by simp [State.pageFlushed, State.pageWords] }

/-! ### The parts of FLUSH on a free port -/

/-- When a page erase answers (rule R202). -/
theorem flashErase_of {a : Word16} (hb : s.spmBusy = false) (hf : a.toNat < s.cfg.flashSize)
    (hlt : a.toNat < s.cfg.bootStart.toNat) : flashErase a s = .ok { s with
      spmBusy := true
      rwwEnabled := false
      flash := Memory.writeBytes s.flash a.toNat (List.replicate s.cfg.pageSize 0xFF) } := by
  rw [flashErase, pageCheck_of hb hf hlt]

/-- When a page program answers (rule R203). -/
theorem flashProgram_of {a : Word16} (hb : s.spmBusy = false) (hf : a.toNat < s.cfg.flashSize)
    (hlt : a.toNat < s.cfg.bootStart.toNat) : flashProgram a s = .ok { s with
      spmBusy := true
      rwwEnabled := false
      flash := Memory.writeBytes s.flash a.toNat
        ((List.range s.cfg.pageSize).map (fun k => Memory.read s.flash (a.toNat + k) &&& fillByte s.fill k)) } := by
  rw [flashProgram, pageCheck_of hb hf hlt]

theorem flushErase_free (h : s.Inv) (hb : s.spmBusy = false) (hlt : s.pageStart.toNat < s.cfg.bootStart.toNat) :
    flushErase s = .next (push .flushProgram { s with spmBusy := true, rwwEnabled := false, flash := s.erasedFlash }) := by
  rw [flushErase, if_neg (by simp [hb]), flashErase_of hb (Nat.lt_of_lt_of_le hlt h.bootStart_le) hlt]
  rfl

/-- FLUSH's second part, when the latch can be filled and the page programmed (rules R201, R203). -/
theorem flushProgram_of {v w : State} (hb : s.spmBusy = false) (hf : fillWords (s.cfg.pageSize / 2) 0 s = .ok v)
    (hp : flashProgram v.pageStart v = .ok w) : flushProgram s = .next (push .flushEnable w) := by
  rw [flushProgram, if_neg (by simp [hb]), hf]
  simp only [hp]

/-- FLUSH's second part, on the page it has erased. -/
theorem flushProgram_erased (h : s.Inv) (hlt : s.pageStart.toNat < s.cfg.bootStart.toNat) :
    flushProgram { s with spmBusy := false, rwwEnabled := false, flash := s.erasedFlash } =
      .next (push .flushEnable { s.pageFlushed with spmBusy := true, rwwEnabled := false }) := by
  have hinside := Nat.lt_of_lt_of_le hlt h.bootStart_le
  have herased : State.Inv { s with spmBusy := false, rwwEnabled := false, flash := s.erasedFlash } :=
    h.pageWritten hinside List.length_replicate false false
  have hprogram := flashProgram_of (a := s.pageStart)
    (s := { s with spmBusy := false, rwwEnabled := false, flash := s.erasedFlash, fill := s.pageWords }) rfl hinside hlt
  rw [programmed_bytes h] at hprogram
  exact flushProgram_of rfl (fillWords_page herased rfl) hprogram

end

/-! ### The run of a FLUSH -/

section
variable {s u : State}

theorem Leads.flashEngine (ha : s.cfg.Admissible) : Leads [.flashEngine] s (flashEngineStep s) := .one ha fun _ => rfl

/-- A sequencer step that begins FLUSH's erase on a free port leads, by the order `flushEvents`, to FLUSH's end (rule
R201). -/
theorem Leads.flush (ha : u.cfg.Admissible) (hh : u.held = false)
    (hx : ∀ fs, sequencerStep { u with script := fs } = flushErase { s with script := fs })
    (h : s.Inv) (hn : s.held = false) (hb : s.spmBusy = false) (hlt : s.pageStart.toNat < s.cfg.bootStart.toNat) :
    Leads flushEvents u (leaveSection s.pageFlushed) := by
  have herase : Leads [.sequencer] u
      (push .flushProgram { s with spmBusy := true, rwwEnabled := false, flash := s.erasedFlash }) :=
    .sequencer ha hh fun fs => (hx fs).trans (flushErase_free (s := { s with script := fs }) { h with } hb hlt)
  have hprogram : Leads [.sequencer]
      (push .flushProgram { s with spmBusy := false, rwwEnabled := false, flash := s.erasedFlash })
      (push .flushEnable { s.pageFlushed with spmBusy := true, rwwEnabled := false }) :=
    .task h.admissible hn rfl fun fs => flushProgram_erased (s := { s with script := fs }) { h with } hlt
  have henable : Leads [.sequencer] (push .flushEnable { s.pageFlushed with rwwEnabled := false })
      (leaveSection s.pageFlushed) :=
    .task h.admissible hn rfl fun _ => rfl
  exact (((herase.trans (.flashEngine h.admissible)).trans hprogram).trans (.flashEngine h.admissible)).trans henable

end

end Sys2Proof.Machine
end

section
/-! SUPPORT. Staging within one page and the start of a flush (42_page_buffer.md rules R181 to R185, R188): STAGE's loop, byte
by byte. -/

namespace Sys2Proof.Machine

/-! ### The staging buffer with bytes overwritten -/

/-- The buffer with a byte sequence written over it from an offset on (rule R182). -/
def overwrite : List Byte → Nat → List Byte → List Byte
  | pb, _, [] => pb
  | pb, k, b :: bs => overwrite (pb.set k b) (k + 1) bs

theorem overwrite_length (pb : List Byte) (k : Nat) (p : List Byte) : (overwrite pb k p).length = pb.length := by
  induction p generalizing pb k with
  | nil => rfl
  | cons b bs ih => rw [overwrite, ih, List.length_set]

theorem overwrite_getD {pb : List Byte} {k : Nat} {p : List Byte} (hk : k + p.length ≤ pb.length) (j : Nat) :
    (overwrite pb k p).getD j 0 = if k ≤ j ∧ j < k + p.length then p.getD (j - k) 0 else pb.getD j 0 := by
  induction p generalizing pb k with
  | nil => rw [overwrite, if_neg (by simp)]
  | cons b bs ih =>
    rw [List.length_cons] at hk ⊢
    rw [overwrite, ih (by rw [List.length_set]; omega)]
    by_cases hj : j = k
    · subst hj
      rw [if_neg (by omega), if_pos (by omega), Nat.sub_self]
      simp [List.getD_eq_getElem?_getD, show j < pb.length by omega]
    · by_cases hin : k + 1 ≤ j ∧ j < k + 1 + bs.length
      · rw [if_pos hin, if_pos (by omega), show j - k = j - (k + 1) + 1 by omega, List.getD_cons_succ]
      · rw [if_neg hin, if_neg (by omega)]
        simp [List.getD_eq_getElem?_getD, List.getElem?_set_ne (Ne.symm hj)]

/-! ### STAGE's loop, case by case (rule R182) -/

/-- The buffer anchored on the page of an address, a copy of the page in flash (rules R181, R183). -/
def State.onPage (s : State) (a : Word16) : State :=
  { s with
    pageStart := pageBase s.cfg.pageSize a
    pagebuf := Memory.readBytes s.flash (pageBase s.cfg.pageSize a) s.cfg.pageSize
    dirty := true }

section
variable {s t : State} {a base : Word16} {b : Byte} {bs p : List Byte}

theorem stageLoop_covered (hc : covered a s = true) :
    stageLoop a (b :: bs) s = stageLoop (a + 1) bs (stageByte a b s) := by
  rw [stageLoop, if_pos hc]

theorem stageLoop_elsewhere (hd : s.dirty = true) (hc : covered a s = false) :
    stageLoop a (b :: bs) s = execFlush (push (.stageRest a (b :: bs)) s) := by
  rw [stageLoop, if_neg (by simp [hc]), if_pos hd]

theorem covered_of_clean (hd : s.dirty = false) (a : Word16) : covered a s = false := by simp [covered, hd]

/-- On a clean buffer the loop goes on as on the page anchored first (rule R183). -/
theorem stageLoop_anchored (hps : 0 < s.cfg.pageSize) (hd : s.dirty = false) (ha : anchor a s = .ok t) :
    stageLoop a (b :: bs) s = stageLoop a (b :: bs) t := by
  rw [stageLoop_covered (anchor_covers hps ha), stageLoop, if_neg (by simp [covered_of_clean hd]), if_neg (by simp [hd]), ha]

theorem stageLoop_fault (hd : s.dirty = false) {f : Fault} (ha : anchor a s = .error f) :
    stageLoop a (b :: bs) s = .fault f := by
  rw [stageLoop, if_neg (by simp [covered_of_clean hd]), if_neg (by simp [hd]), ha]

/-- A page of program memory ends inside it (20_memory.md rules R62, R74). -/
theorem State.Inv.page_inside (h : s.Inv) (ha : a.toNat < s.cfg.flashSize) :
    (pageBase s.cfg.pageSize a).toNat + s.cfg.pageSize ≤ s.cfg.flashSize := by
  refine page_below (pageBase_aligned ..) h.flashSize_aligned ?_
  rw [pageBase_toNat]
  omega

/-- Anchoring inside readable program memory answers (rules R181, R183). -/
theorem anchor_of (h : s.Inv) (hr : s.rwwEnabled = true) (ha : a.toNat < s.cfg.flashSize) :
    anchor a s = .ok (s.onPage a) := by
  have hend := h.page_inside ha
  rw [anchor, memRead_of hr fun k hk => Nat.lt_of_le_of_lt (Nat.mod_le ..) (by omega)]
  rfl

theorem anchor_fault {f : Fault} (hm : memRead (pageBase s.cfg.pageSize a) s.cfg.pageSize s = .error f) :
    anchor a s = .error f := by
  rw [anchor, hm]

theorem execStage_nil (a : Word16) (s : State) : execStage a [] s = .next s :=
  congrArg Host.Outcome.next (leaveSection_enterSection s)

/-- A payload that stays on the staged page is written at its offset, and the section is left; no flush (rule R182). -/
theorem stageLoop_onPage {k : Nat} (ha : a = BitVec.ofNat 16 (s.pageStart.toNat + k)) (hd : s.dirty = true)
    (hk : k + p.length ≤ s.cfg.pageSize) (hend : s.pageStart.toNat + s.cfg.pageSize ≤ 65536) :
    stageLoop a p s = .next (leaveSection { s with pagebuf := overwrite s.pagebuf k p }) := by
  induction p generalizing a k s with
  | nil => rfl
  | cons b bs ih =>
    rw [List.length_cons] at hk
    have haddr : a.toNat = s.pageStart.toNat + k := by
      rw [ha, BitVec.toNat_ofNat]
      exact Nat.mod_eq_of_lt (by omega)
    have hbyte : stageByte a b s = { s with pagebuf := s.pagebuf.set k b } := by
      rw [stageByte, haddr, Nat.add_sub_cancel_left]
    have hnext : a + 1 = BitVec.ofNat 16 (s.pageStart.toNat + (k + 1)) := by
      rw [ha, ← Nat.add_assoc, BitVec.ofNat_add _ 1]
      rfl
    have hk' : k + 1 + bs.length ≤ s.cfg.pageSize := by omega
    rw [stageLoop_covered ((covered_iff ..).mpr ⟨hd, by omega, by omega⟩), hbyte]
    exact ih (s := { s with pagebuf := s.pagebuf.set k b }) hnext hd hk' hend

/-! ### STAGE within one page -/

/-- What the buffer holds before a payload on the page is written: the staged page, or on a clean buffer the copy of the page
in flash (rule R183). -/
def State.shadow (s : State) (base : Word16) : List Byte :=
  if s.dirty then s.pagebuf else Memory.readBytes s.flash base s.cfg.pageSize

theorem State.shadow_push (k : Task) : (push k s).shadow base = s.shadow base := rfl

theorem State.Inv.shadow_length (h : s.Inv) : (s.shadow base).length = s.cfg.pageSize := by
  unfold State.shadow
  split
  · exact h.pagebuf_length
  · exact Memory.readBytes_length ..

theorem State.shadow_getD (hend : base.toNat + s.cfg.pageSize ≤ 65536) {k : Nat} (hk : k < s.cfg.pageSize) :
    (s.shadow base).getD k 0 = if s.dirty then s.pagebuf.getD k 0 else Memory.read s.flash (base.toNat + k) := by
  unfold State.shadow
  split
  · rfl
  · rw [Memory.readBytes_getD _ _ hk, Nat.mod_eq_of_lt (by omega)]

/-- The premises of STAGE within one page: a payload on the page of `base`, which is the staged one or can be copied from
flash (rules R181 to R183). -/
structure State.StagesOnPage (s : State) (a base : Word16) (p : List Byte) : Prop where
  inv : s.Inv
  inside : a.toNat < s.cfg.flashSize
  fits : a.toNat % s.cfg.pageSize + p.length ≤ s.cfg.pageSize
  base_eq : base = pageBase s.cfg.pageSize a
  staged : s.dirty = true → s.pageStart = base
  readable : s.dirty = false → s.rwwEnabled = true

theorem State.StagesOnPage.push (h : s.StagesOnPage a base p) (k : Task) : (push k s).StagesOnPage a base p :=
  { h with inv := h.inv.push k }

theorem State.StagesOnPage.end_le (h : s.StagesOnPage a base p) : base.toNat + s.cfg.pageSize ≤ 65536 :=
  h.base_eq ▸ Nat.le_trans (h.inv.page_inside h.inside) h.inv.flashSize_le

/-- The loop begins as on the page with its shadow in the buffer. -/
theorem State.StagesOnPage.loop_eq (h : s.StagesOnPage a base (b :: bs)) :
    stageLoop a (b :: bs) s =
      stageLoop a (b :: bs) { s with pageStart := base, pagebuf := s.shadow base, dirty := true } := by
  cases hd : s.dirty with
  | true => rw [State.shadow, if_pos hd, ← h.staged hd, ← hd]
  | false =>
    rw [stageLoop_anchored h.inv.pageSize_pos hd (anchor_of h.inv (h.readable hd) h.inside), State.shadow,
      if_neg (by simp [hd]), State.onPage, h.base_eq]

theorem State.StagesOnPage.stage (h : s.StagesOnPage a base p) (hp : p ≠ []) :
    execStage a p s = .next { s with
      pageStart := base, pagebuf := overwrite (s.shadow base) (a.toNat % s.cfg.pageSize) p, dirty := true } := by
  obtain ⟨b, bs, rfl⟩ := List.exists_cons_of_ne_nil hp
  have haddr : a = BitVec.ofNat 16 (base.toNat + a.toNat % s.cfg.pageSize) := by
    rw [h.base_eq, pageBase_toNat, Nat.sub_add_cancel (Nat.mod_le ..), BitVec.ofNat_toNat, BitVec.setWidth_eq]
  have hsection : (enterSection s).StagesOnPage a base (b :: bs) := { h with inv := h.inv.enterSection }
  have hloop := stageLoop_onPage 
    (s := { enterSection s with pageStart := base, pagebuf := s.shadow base, dirty := true }) haddr rfl h.fits h.end_le
  exact hsection.loop_eq.trans hloop

/-- On a clean buffer a payload faults as the copy of its first page does. -/
theorem exec_stage_fault (hd : s.dirty = false) (hp : p ≠ []) {f : Fault}
    (hm : memRead (pageBase s.cfg.pageSize a) s.cfg.pageSize s = .error f) :
    exec (.stage a p) s = .fault f ∧ exec (.recData a p) s = .fault f := by
  obtain ⟨b, bs, rfl⟩ := List.exists_cons_of_ne_nil hp
  exact ⟨stageLoop_fault (s := enterSection s) hd (anchor_fault hm),
    stageLoop_fault (s := enterSection (push _ (push _ s))) hd (anchor_fault hm)⟩

/-- The copy of a page at or above FLASH_SIZE touches the payload's own address (20_memory.md rule R74). -/
theorem memRead_page_outside (hps : 0 < s.cfg.pageSize) (hr : s.rwwEnabled = true) (ha : s.cfg.flashSize ≤ a.toNat) :
    memRead (pageBase s.cfg.pageSize a) s.cfg.pageSize s = .error .flashAddressOutOfRange := by
  refine memRead_outside hr ⟨a.toNat % s.cfg.pageSize, Nat.mod_lt _ hps, ?_⟩
  rwa [pageBase_toNat, Nat.sub_add_cancel (Nat.mod_le ..), Nat.mod_eq_of_lt (BitVec.isLt a)]

end

/-- Settles O23: on the page the loop overwrites its shadow, and on a clean buffer the copy of the page decides the
faults. -/
theorem stageWithinOnePage : Obligations.StageWithinOnePage := by
  refine ⟨fun s a base p hi hp ha hfits hbase hstaged hreadable => ?_,
    fun s a p hadm hd hp => ⟨fun hr hout => ?_, fun hr => ?_⟩⟩
  · have h : s.StagesOnPage a base p := {
      inv := hi
      inside := ha
      fits := hfits
      base_eq := BitVec.eq_of_toNat_eq (by rw [hbase, pageBase_toNat])
      staged := hstaged
      readable := hreadable }
    have hdata := (h.push (.goto .uploadHdr)).push (.run .okLineCommitted)
    have hdone := hdata.stage hp
    rw [State.shadow_push, State.shadow_push] at hdone
    refine ⟨_, h.stage hp, hdone, ?_, fun k hk => ?_⟩
    · rw [overwrite_length, hi.shadow_length]
    · rw [overwrite_getD (by rw [hi.shadow_length]; exact hfits), State.shadow_getD h.end_le hk]
  · obtain ⟨-, -, -, -, hps, -⟩ := hadm
    exact exec_stage_fault hd hp (memRead_page_outside hps hr hout)
  · exact exec_stage_fault hd hp (memRead_disabled hr ..)

/-- Settles O24: with no payload the section is entered and left, and a byte off the staged page is the loop's flush. -/
theorem stageEmptyAndFlushTrigger : Obligations.StageEmptyAndFlushTrigger := by
  refine fun s a => ⟨execStage_nil a s, execStage_nil a (push _ (push _ s)), fun b bs hd hout => ?_⟩
  have hc : covered a (enterSection s) = false := Bool.eq_false_iff.mpr fun hc => by
    obtain ⟨-, hlow, hhigh⟩ := (covered_iff ..).mp hc
    exact hout.elim (Nat.not_lt_of_le hlow) (Nat.not_le_of_lt hhigh)
  exact stageLoop_elsewhere (s := enterSection s) hd hc

end Sys2Proof.Machine
end

section
/-! SUPPORT. Staging as a refinement of writing to memory (42_page_buffer.md rules R180, R184, R186, R189, R190): every part of
STAGE and FLUSHPENDING keeps the image or writes its byte to it, and their runs are put together. -/

namespace Sys2Proof.Machine

/-! ### States that STAGE and FLUSHPENDING go on from, and what they do to the image -/

/-- A state in which STAGE and FLUSHPENDING run without a fault: sound, the section readable, and what is staged below the
boundary (20_memory.md rules R75, R76). -/
structure State.Stageable (s : State) : Prop where
  inv : s.Inv
  notHeld : s.held = false
  readable : s.rwwEnabled = true
  below : s.dirty = true → s.pageStart.toNat < s.cfg.bootStart.toNat

/-- `s` with the page buffer, the flash state and the port of `t`. -/
def State.withPages (s t : State) : State :=
  { s with
    pagebuf := t.pagebuf, pageStart := t.pageStart, dirty := t.dirty, flash := t.flash, fill := t.fill,
    spmBusy := t.spmBusy }

/-- `s` with the tasks `ts` left to be done. -/
def State.left (s : State) (ts : List Task) : State := { s with todo := ts }

theorem State.Inv.left {s : State} (h : s.Inv) (ts : List Task) : (s.left ts).Inv := { h with }

theorem State.Stageable.left {s : State} (h : s.Stageable) (ts : List Task) : (s.left ts).Stageable :=
  { h with inv := h.inv.left ts }

/-- From `s` to `t` only the page buffer and the flash state were written, and the image became `f`. -/
structure State.Reimaged (s t : State) (f : Nat → Byte) : Prop where
  image : t.image = f
  stageable : t.Stageable
  frame : t = s.withPages t
  port : t.spmBusy = true → s.spmBusy = true

section
variable {s t u : State} {f g : Nat → Byte}

theorem State.Reimaged.refl (h : s.Stageable) : s.Reimaged s s.image := ⟨rfl, h, rfl, id⟩

theorem State.Reimaged.trans (h : s.Reimaged t f) (h' : t.Reimaged u g) : s.Reimaged u g where
  image := h'.image
  stageable := h'.stageable
  frame := by
    have htu : t.withPages u = (s.withPages t).withPages u := congrArg (State.withPages · u) h.frame
    exact h'.frame.trans htu
  port := h.port ∘ h'.port

theorem State.Reimaged.cfg_eq (h : s.Reimaged t f) : t.cfg = s.cfg := by rw [h.frame]; rfl

theorem State.Reimaged.todo_eq (h : s.Reimaged t f) : t.todo = s.todo := by rw [h.frame]; rfl

theorem State.Reimaged.I_eq (h : s.Reimaged t f) : t.I = s.I := by rw [h.frame]; rfl

theorem State.Reimaged.isave_eq (h : s.Reimaged t f) : t.isave = s.isave := by rw [h.frame]; rfl

/-- What is left to be done plays no part. -/
theorem State.Reimaged.left (h : s.Reimaged t f) (ts : List Task) : (s.left ts).Reimaged (t.left ts) f where
  image := h.image
  stageable := h.stageable.left ts
  frame := congrArg (State.left · ts) h.frame
  port := h.port

/-- In a staged state the image is the page over flash. -/
theorem State.image_of_dirty (hd : s.dirty = true) (x : Nat) : s.image x =
    if s.pageStart.toNat ≤ x ∧ x < s.pageStart.toNat + s.cfg.pageSize then s.pagebuf.getD (x - s.pageStart.toNat) 0
    else Memory.read s.flash x := by
  simp [State.image, hd]

theorem State.image_of_clean (hd : s.dirty = false) (x : Nat) : s.image x = Memory.read s.flash x := by
  simp [State.image, hd]

/-- Flushing and retiring the staged page leaves the image as it is: the page is then in flash (rules R184, R186). -/
theorem State.Stageable.retired (h : s.Stageable) (hd : s.dirty = true) :
    s.Reimaged { s.pageFlushed with dirty := false } s.image where
  image := funext fun x => by
    rw [State.image_of_clean rfl, State.image_of_dirty hd]
    exact State.pageFlushed_read h.inv x
  stageable := {
    inv := { h.inv.pageFlushed (Nat.lt_of_lt_of_le (h.below hd) h.inv.bootStart_le) with staged_inside := nofun }
    notHeld := h.notHeld
    readable := rfl
    below := nofun }
  frame := by
    rw [State.withPages, h.readable]
    rfl
  port := nofun

/-- Anchoring a clean buffer leaves the image as it is: the buffer is the page in flash (rule R183). -/
theorem State.Stageable.onPage (h : s.Stageable) {a : Word16} (ha : a.toNat < s.cfg.bootStart.toNat)
    (hd : s.dirty = false) : s.Reimaged (s.onPage a) s.image := by
  have hinside := Nat.lt_of_lt_of_le ha h.inv.bootStart_le
  have hend := h.inv.page_inside hinside
  have hsize := h.inv.flashSize_le
  have hbelow : (pageBase s.cfg.pageSize a).toNat < s.cfg.bootStart.toNat := by
    rw [pageBase_toNat]
    omega
  refine ⟨funext fun x => ?_,
    ⟨h.inv.anchored (anchor_of h.inv h.readable hinside), h.notHeld, h.readable, fun _ => hbelow⟩, rfl, id⟩
  rw [State.image_of_clean hd, State.image_of_dirty (s := s.onPage a) rfl]
  by_cases hx : (pageBase s.cfg.pageSize a).toNat ≤ x ∧ x < (pageBase s.cfg.pageSize a).toNat + s.cfg.pageSize
  · have hcopy := Memory.readBytes_getD s.flash (pageBase s.cfg.pageSize a) (n := s.cfg.pageSize)
      (k := x - (pageBase s.cfg.pageSize a).toNat) (by omega)
    rw [Nat.add_sub_cancel' hx.1, Nat.mod_eq_of_lt (by omega)] at hcopy
    exact (if_pos hx).trans hcopy
  · exact if_neg hx

/-- A byte staged on the page is written to the image at its address (rules R180, R182). -/
theorem State.Stageable.staged (h : s.Stageable) {a : Word16} (hc : covered a s = true) (b : Byte) :
    s.Reimaged (stageByte a b s) (fun x => if x = a.toNat then b else s.image x) := by
  obtain ⟨hd, hlow, hhigh⟩ := (covered_iff ..).mp hc
  have hlen := h.inv.pagebuf_length
  have hinv : (stageByte a b s).Inv := (Micro.staged (E := True) a b s hc).keeps_inv h.inv
  refine ⟨funext fun x => ?_, ⟨hinv, h.notHeld, h.readable, h.below⟩, rfl, id⟩
  rw [State.image_of_dirty hd, State.image_of_dirty (s := stageByte a b s) hd]
  simp only [stageByte, List.getD_eq_getElem?_getD]
  by_cases hx : x = a.toNat
  · subst hx
    rw [if_pos ⟨hlow, hhigh⟩, if_pos rfl, List.getElem?_set_self (by omega)]
    rfl
  · rw [if_neg hx]
    split
    · rw [List.getElem?_set_ne (by omega)]
    · rfl

end

/-! ### Runs of the sequencer and the flash engine -/

/-- Some order of sequencer and flash engine leads from `s` to `t`. -/
def Reaches (s t : State) : Prop := ∃ es, (∀ e ∈ es, e = .sequencer ∨ e = .flashEngine) ∧ Leads es s t

/-- What the sequencer does by `x` from `s` completes in `t`: from wherever its step is `x` at `s`, some order of sequencer
and flash engine leads to `t`. -/
def Completes (x : State → Host.Outcome State Fault Refusal) (s t : State) : Prop :=
  ∀ u : State, u.cfg.Admissible → u.held = false →
    (∀ fs, sequencerStep { u with script := fs } = x { s with script := fs }) → Reaches u t

section
variable {s t u v : State} {x y : State → Host.Outcome State Fault Refusal}

theorem Leads.reaches {es : List Event} (h : Leads es s t) (hes : ∀ e ∈ es, e = .sequencer ∨ e = .flashEngine) :
    Reaches s t := ⟨es, hes, h⟩

theorem Reaches.refl (s : State) : Reaches s s := ⟨[], nofun, fun _ => rfl⟩

theorem Reaches.trans (h : Reaches s t) (h' : Reaches t u) : Reaches s u := by
  obtain ⟨es, hes, hst⟩ := h
  obtain ⟨fs, hfs, htu⟩ := h'
  exact ⟨es ++ fs, fun e he => (List.mem_append.mp he).elim (hes e) (hfs e), hst.trans htu⟩

/-- What answers at once is completed by the sequencer's step. -/
theorem Completes.of_next (hx : ∀ fs, x { s with script := fs } = .next { t with script := fs }) : Completes x s t :=
  fun _ ha hh hu => (Leads.sequencer ha hh fun fs => (hu fs).trans (hx fs)).reaches (by simp)

/-- What does the same completes the same. -/
theorem Completes.of_eq (h : Completes y v t) (hxy : ∀ fs, x { s with script := fs } = y { v with script := fs }) :
    Completes x s t := fun u ha hh hu => h u ha hh fun fs => (hu fs).trans (hxy fs)

/-- The next task is run. -/
theorem Completes.reaches {k : Task} {ts : List Task} (h : Completes (runTask k) (s.left ts) t)
    (ha : s.cfg.Admissible) (hh : s.held = false) (ht : s.todo = k :: ts) : Reaches s t :=
  h s ha hh fun fs => sequencerStep_of_task (s := { s with script := fs }) ht

theorem Completes.trans (h : Completes x s v) (h' : Reaches v t) : Completes x s t :=
  fun u ha hh hu => (h u ha hh hu).trans h'

/-- FLUSH completes: at once on a free port, else after the flash engine has ended the operation in progress
(43_flash_programmer.md rules R201, R210). -/
theorem Completes.flush (h : s.Inv) (hh : s.held = false) (hlt : s.pageStart.toNat < s.cfg.bootStart.toNat) :
    Completes execFlush s s.pageFlushed := by
  intro u hau hhu hu
  have hflush : ∀ e ∈ flushEvents, e = .sequencer ∨ e = .flashEngine := by decide
  cases hb : s.spmBusy with
  | false =>
    exact (Leads.flush (s := enterSection s) hau hhu hu h.enterSection hh hb hlt).reaches hflush
  | true =>
    have hwait : Leads [.sequencer] u (push .flushErase (enterSection s)) :=
      .sequencer hau hhu fun fs => (hu fs).trans (if_pos hb)
    have hrest : Leads flushEvents (flashEngineStep (push .flushErase (enterSection s)))
        (leaveSection (flashEngineStep (enterSection s)).pageFlushed) :=
      .flush (s := flashEngineStep (enterSection s)) h.admissible hh (fun _ => rfl) { h.enterSection with } hh rfl hlt
    exact ((hwait.trans (.flashEngine h.admissible)).trans hrest).reaches (by decide)

end

/-! ### STAGE -/

section
variable {s t : State} {a : Word16} {b : Byte} {bs p : List Byte}

/-- STAGE's loop completes, with the section left, and writes the payload over the image. -/
def StageLoopDone (a : Word16) (p : List Byte) (s : State) : Prop :=
  ∃ t, s.Reimaged t (writeImage s.image a p) ∧ Completes (stageLoop a p) s (leaveSection t)

/-- The loop on a byte of the staged page (rule R182). -/
theorem stageLoopDone_covered (h : s.Stageable) (hc : covered a s = true)
    (ih : ∀ t, t.Stageable → t.cfg = s.cfg → StageLoopDone (a + 1) bs t) : StageLoopDone a (b :: bs) s := by
  have hbyte := h.staged hc b
  obtain ⟨t, ht, hdone⟩ := ih _ hbyte.stageable rfl
  rw [hbyte.image] at ht
  exact ⟨t, hbyte.trans ht, .of_eq hdone fun fs => stageLoop_covered (s := { s with script := fs }) hc⟩

/-- The loop on a clean buffer: on the page anchored first (rule R183). -/
theorem stageLoopDone_clean (h : s.Stageable) (ha : a.toNat < s.cfg.bootStart.toNat) (hd : s.dirty = false)
    (ih : ∀ t, t.Stageable → t.cfg = s.cfg → StageLoopDone (a + 1) bs t) : StageLoopDone a (b :: bs) s := by
  have hanchor := anchor_of h.inv h.readable (Nat.lt_of_lt_of_le ha h.inv.bootStart_le)
  have hpage := h.onPage ha hd
  obtain ⟨t, ht, hdone⟩ :=
    stageLoopDone_covered (b := b) hpage.stageable (anchor_covers h.inv.pageSize_pos hanchor) ih
  rw [hpage.image] at ht
  refine ⟨t, hpage.trans ht, .of_eq hdone fun fs => ?_⟩
  exact stageLoop_anchored (s := { s with script := fs }) h.inv.pageSize_pos hd
    (anchor_of { h.inv with } h.readable (Nat.lt_of_lt_of_le ha h.inv.bootStart_le))

/-- The loop on a byte of another page than the staged one: FLUSH, then the loop on the retired buffer (rules R182, R185). -/
theorem stageLoopDone_elsewhere (h : s.Stageable) (ha : a.toNat < s.cfg.bootStart.toNat) (hd : s.dirty = true)
    (hc : covered a s = false) (ih : ∀ t, t.Stageable → t.cfg = s.cfg → StageLoopDone (a + 1) bs t) :
    StageLoopDone a (b :: bs) s := by
  have hretired := h.retired hd
  obtain ⟨t, ht, hdone⟩ := stageLoopDone_clean (b := b) hretired.stageable ha rfl ih
  rw [hretired.image] at ht
  have hflush := Completes.flush (s := push (.stageRest a (b :: bs)) s) (h.inv.push _) h.notHeld (h.below hd)
  have hrest : Completes (runTask (.stageRest a (b :: bs))) s.pageFlushed (leaveSection t) := .of_eq hdone fun _ => rfl
  have hresumed : Reaches (push (.stageRest a (b :: bs)) s).pageFlushed (leaveSection t) :=
    hrest.reaches h.inv.admissible h.notHeld rfl
  exact ⟨t, hretired.trans ht,
    .of_eq (hflush.trans hresumed) fun fs => stageLoop_elsewhere (s := { s with script := fs }) hd hc⟩

/-- The addresses of a payload, wrapping modulo 65536, lie below the boundary (20_memory.md rule R75; 42_page_buffer.md rule
R190). -/
def BelowBoundary (c : Config) (a : Word16) (p : List Byte) : Prop :=
  ∀ k < p.length, (a.toNat + k) % 65536 < c.bootStart.toNat

theorem BelowBoundary.head {c : Config} (h : BelowBoundary c a (b :: bs)) : a.toNat < c.bootStart.toNat := by
  have := h 0 (by simp)
  rwa [Nat.add_zero, Nat.mod_eq_of_lt a.isLt] at this

theorem BelowBoundary.tail {c : Config} (h : BelowBoundary c a (b :: bs)) : BelowBoundary c (a + 1) bs := fun k hk => by
  have := h (k + 1) (by simpa using hk)
  rwa [BitVec.toNat_add, Nat.mod_add_mod, Nat.add_assoc, Nat.add_comm _ k]

/-- STAGE's loop over a payload below the boundary completes and writes it over the image (rules R182, R184, R190). -/
theorem stageLoopDone (h : s.Stageable) (hp : BelowBoundary s.cfg a p) : StageLoopDone a p s := by
  induction p generalizing a s with
  | nil => exact ⟨s, .refl h, .of_next fun _ => rfl⟩
  | cons b bs ih =>
    have hrest : ∀ t, t.Stageable → t.cfg = s.cfg → StageLoopDone (a + 1) bs t :=
      fun t ht hcfg => ih ht (hcfg ▸ hp.tail)
    cases hc : covered a s with
    | true => exact stageLoopDone_covered h hc hrest
    | false =>
      cases hd : s.dirty with
      | true => exact stageLoopDone_elsewhere h hp.head hd hc hrest
      | false => exact stageLoopDone_clean h hp.head hd hrest

variable {ts : List Task}

/-- STAGE as the next task: its run ends with the payload written over the image. -/
theorem Reaches.stage (h : s.Stageable) (ht : s.todo = .run (.stage a p) :: ts) (hp : BelowBoundary s.cfg a p) :
    ∃ t, Reaches s t ∧ (s.left ts).Reimaged t (writeImage s.image a p) := by
  have hsection : (enterSection (s.left ts)).Stageable := { h.left ts with inv := (h.inv.left ts).enterSection }
  obtain ⟨t, hi, hdone⟩ := stageLoopDone hsection hp
  have hrun : Completes (runTask (.run (.stage a p))) (s.left ts) (leaveSection t) := .of_eq hdone fun _ => rfl
  exact ⟨leaveSection t, hrun.reaches h.inv.admissible h.notHeld ht, {
    image := hi.image
    stageable := { hi.stageable with inv := hi.stageable.inv.leaveSection }
    frame := congrArg leaveSection hi.frame
    port := hi.port }⟩

/-- STAGE calls as the next tasks: their run ends with all payloads written over the image in order (rule R189). -/
theorem Reaches.stages {calls : List (Word16 × List Byte)} (h : s.Stageable)
    (ht : s.todo = calls.map (fun c => .run (.stage c.1 c.2)) ++ ts) (hp : ∀ c ∈ calls, BelowBoundary s.cfg c.1 c.2) :
    ∃ t, Reaches s t ∧ (s.left ts).Reimaged t (writeImages s.image calls) := by
  induction calls generalizing s with
  | nil =>
    obtain rfl : s.todo = ts := ht
    exact ⟨s, .refl s, .refl h⟩
  | cons c cs ih =>
    obtain ⟨t, hst, hi⟩ := Reaches.stage h ht (hp c (List.mem_cons_self ..))
    obtain ⟨u, htu, hi'⟩ := ih hi.stageable hi.todo_eq
      fun c' hc' => hi.cfg_eq ▸ hp c' (List.mem_cons_of_mem c hc')
    rw [hi.image] at hi'
    exact ⟨u, hst.trans htu, (hi.left ts).trans hi'⟩

/-! ### FLUSHPENDING -/

theorem execFlushPending_clean (hd : s.dirty = false) : execFlushPending s = .next s := by
  rw [execFlushPending, if_neg (by simp [hd]), leaveSection_enterSection]

theorem execFlushPending_dirty (hd : s.dirty = true) :
    execFlushPending s = execFlush (push .retire (enterSection s)) := by
  rw [execFlushPending, if_pos hd]

/-- FLUSHPENDING resumed after its flush, in one step (rule R186). -/
theorem Leads.retire (ha : s.cfg.Admissible) (hh : s.held = false) :
    Leads [.sequencer] (push .retire (enterSection s)) { s with dirty := false } :=
  .task ha hh rfl fun _ => rfl

/-- FLUSHPENDING completes with nothing staged and the image as it was (rule R186). -/
theorem flushPendingDone (h : s.Stageable) :
    ∃ t, t.dirty = false ∧ s.Reimaged t s.image ∧ Completes execFlushPending s t := by
  cases hd : s.dirty with
  | false => exact ⟨s, hd, .refl h, .of_next fun fs => execFlushPending_clean (s := { s with script := fs }) hd⟩
  | true =>
    have hflush := Completes.flush (s := push .retire (enterSection s)) (h.inv.enterSection.push _) h.notHeld (h.below hd)
    have hretire := Leads.retire (s := s.pageFlushed) h.inv.admissible h.notHeld
    exact ⟨_, rfl, h.retired hd, .of_eq (hflush.trans (hretire.reaches (by simp)))
      fun fs => execFlushPending_dirty (s := { s with script := fs }) hd⟩

/-- FLUSHPENDING as the next task (rule R186). -/
theorem Reaches.flushPending (h : s.Stageable) (ht : s.todo = .run .flushPending :: ts) :
    ∃ t, Reaches s t ∧ t.dirty = false ∧ (s.left ts).Reimaged t s.image := by
  obtain ⟨t, hd, hi, hdone⟩ := flushPendingDone (h.left ts)
  have hrun : Completes (runTask (.run .flushPending)) (s.left ts) t := .of_eq hdone fun _ => rfl
  exact ⟨t, hrun.reaches h.inv.admissible h.notHeld ht, hd, hi⟩

end

/-- Settles O25: the run of STAGE's loop, which keeps the image up to the payload's bytes. -/
theorem stageOverlaysTheImage : Obligations.StageOverlaysTheImage := by
  intro s a p ts hi hh hr ht hp hbelow
  obtain ⟨t, ⟨es, hes, hst⟩, him⟩ := Reaches.stage ⟨hi, hh, hr, hbelow⟩ ht hp
  exact ⟨es, _, hes, hst.plays, congrFun him.image, him.port,
    congrArg (fun v : State => { v with script := [] }) him.frame⟩

/-- Settles O26: the calls' runs one after the other, then FLUSHPENDING's, after which the image is program memory. -/
theorem stagesThenFlushPending : Obligations.StagesThenFlushPending := by
  intro s calls hi hh hr ht hp hbelow
  obtain ⟨t, hst, him⟩ := Reaches.stages ⟨hi, hh, hr, hbelow⟩ ht hp
  obtain ⟨u, htu, hd, him'⟩ := Reaches.flushPending him.stageable him.todo_eq
  obtain ⟨es, hes, hrun⟩ := hst.trans htu
  have hI : u.I = s.I := him'.I_eq.trans him.I_eq
  have hisave : u.isave = s.isave := him'.isave_eq.trans him.isave_eq
  refine ⟨es, _, hes, hrun.plays, him'.todo_eq, hd, hI, hisave, fun x => ?_⟩
  rw [← him.image, ← him'.image, State.image_of_clean hd]

/-- Settles O27: a clean buffer is left alone, and a staged page is flushed by `Leads.flush` and then retired. -/
theorem flushPendingWritesThePage : Obligations.FlushPendingWritesThePage := by
  refine fun s => ⟨execFlushPending_clean, fun ts hi hh hb hd hlt ht => ?_⟩
  have hbegin : ∀ fs, sequencerStep { s with script := fs } =
      flushErase { enterSection (push .retire (enterSection (s.left ts))) with script := fs } := fun fs =>
    (sequencerStep_of_task (s := { s with script := fs }) ht).trans
      (execFlushPending_dirty (s := { s.left ts with script := fs }) hd)
  have hflush := Leads.flush (s := enterSection (push .retire (enterSection (s.left ts)))) hi.admissible hh hbegin
    ((hi.left ts).enterSection.push _).enterSection hh hb hlt
  have hretire := Leads.retire (s := (s.left ts).pageFlushed) hi.admissible hh
  have hplays := (hflush.trans hretire).plays
  refine ⟨_, hplays, ?_, ?_⟩
  · rw [State.left, State.pageFlushed, ← hb]
  · exact State.pageFlushed_read (hi.left ts)

end Sys2Proof.Machine
end

section
/-! SUPPORT. The critical sections, the primitives of the self-programming port on a free and on a busy port, and the start of a
FLUSH (43_flash_programmer.md rules R201 to R204, R206 to R208; 20_memory.md rules R74, R75). -/

namespace Sys2Proof.Machine

/-! ### Critical sections (rules R206, R207) -/

theorem execCsLeave_open {s : State} {b : Bool} {l : List Bool} (h : s.isave = b :: l) :
    execCsLeave s = .next { s with I := b, isave := l } := by
  rw [execCsLeave, h]
  simp only [leaveSection, h, List.headD_cons, List.tail_cons]

theorem execCsLeave_unopened {s : State} (h : s.isave = []) : execCsLeave s = .refused .csLeaveUnopened := by
  rw [execCsLeave, h]

/-- Settles O32: leaving the section just entered restores the state by `leaveSection_enterSection`. -/
theorem criticalSections : Obligations.CriticalSections := by
  refine fun s => ⟨rfl, fun b l => execCsLeave_open, execCsLeave_unopened, fun t ht => ?_⟩
  obtain rfl : enterSection s = t := Host.Outcome.next.inj ht
  exact congrArg Host.Outcome.next (leaveSection_enterSection s)

/-! ### The port's faults (rule R208; 20_memory.md rules R74, R75) -/

section
variable {s : State} {a : Word16}

theorem pageCheck_busy (hb : s.spmBusy = true) (a : Word16) : pageCheck a s = .error .flashPortBusy := by
  rw [pageCheck, if_pos hb]

theorem pageCheck_outside (hb : s.spmBusy = false) (ha : s.cfg.flashSize ≤ a.toNat) :
    pageCheck a s = .error .flashAddressOutOfRange := by
  rw [pageCheck, if_neg (by simp [hb]), if_pos ha]

theorem pageCheck_boot (hb : s.spmBusy = false) (ha : a.toNat < s.cfg.flashSize) (hboot : s.cfg.bootStart.toNat ≤ a.toNat) :
    pageCheck a s = .error .flashWriteToBootSection := by
  rw [pageCheck, if_neg (by simp [hb]), if_neg (by omega), if_pos hboot]

theorem flashErase_fault {f : Fault} (h : pageCheck a s = .error f) : flashErase a s = .error f := by
  rw [flashErase, h]

theorem flashProgram_fault {f : Fault} (h : pageCheck a s = .error f) : flashProgram a s = .error f := by
  rw [flashProgram, h]

/-! ### FLUSH up to its first wait (rules R201, R202) -/

theorem flushErase_busy (hb : s.spmBusy = true) : flushErase s = .next (push .flushErase s) := if_pos hb

theorem flushErase_issued {t : State} (hb : s.spmBusy = false) (he : flashErase s.pageStart s = .ok t) :
    flushErase s = .next (push .flushProgram t) := by
  rw [flushErase, if_neg (by simp [hb]), he]

theorem flushErase_fault {f : Fault} (hb : s.spmBusy = false) (hc : pageCheck s.pageStart s = .error f) :
    flushErase s = .fault f := by
  rw [flushErase, if_neg (by simp [hb]), flashErase_fault hc]

end

/-- Settles O28: in the section FLUSH has entered, its first part waits, erases, or faults by the page check. -/
theorem flushStarts : Obligations.FlushStarts := fun s =>
  ⟨fun hb => flushErase_busy (s := enterSection s) hb,
    fun hb hf hlt => flushErase_issued (s := enterSection s) hb (flashErase_of hb hf hlt),
    fun hb ha => flushErase_fault (s := enterSection s) hb (pageCheck_outside hb ha),
    fun hb hf hboot => flushErase_fault (s := enterSection s) hb (pageCheck_boot hb hf hboot),
    execFlushPending_dirty⟩

/-! ### Erasing and programming, byte by byte (rules R202, R203) -/

/-- What an address reads as after a page operation that writes `f k` at offset `k` of the page. -/
theorem Memory.read_writePage {m : Memory} (h : Memory.wf m) (a n : Nat) (f : Nat → Byte) (x : Nat) :
    Memory.read (Memory.writeBytes m a ((List.range n).map f)) x =
      if a ≤ x ∧ x < a + n then f (x - a) else Memory.read m x := by
  rw [Memory.read_writeBytes h, List.length_map, List.length_range]
  refine ite_congr rfl (fun hx => ?_) fun _ => rfl
  simp [List.getD_eq_getElem?_getD, show x - a < n by omega]

theorem Memory.read_erasePage {m : Memory} (h : Memory.wf m) (a n x : Nat) :
    Memory.read (Memory.writeBytes m a (List.replicate n 0xFF)) x =
      if a ≤ x ∧ x < a + n then 0xFF else Memory.read m x := by
  rw [← Memory.read_writePage h a n (fun _ => 0xFF) x, List.map_const', List.length_range]

theorem fillByte_even (fill : List Word16) (j : Nat) : fillByte fill (2 * j) = loByte (fill.getD j 0) := by
  rw [fillByte, if_pos (by omega), show 2 * j / 2 = j by omega]

theorem fillByte_odd (fill : List Word16) (j : Nat) : fillByte fill (2 * j + 1) = hiByte (fill.getD j 0) := by
  rw [fillByte, if_neg (by omega), show (2 * j + 1) / 2 = j by omega]

/-- Settles O31: what an erased and a programmed page read as byte by byte, and the check of the port for each primitive. -/
theorem eraseAndProgram : Obligations.EraseAndProgram := by
  refine fun s a _ hwf _ hf hlt => ⟨fun hb => ⟨?erase, ?program, ?fill, ?enable⟩, fun hb => ?busy⟩
  case erase => exact ⟨_, flashErase_of hb hf hlt, rfl, fun x => Memory.read_erasePage hwf _ _ x⟩
  case program =>
    refine ⟨_, flashProgram_of hb hf hlt, rfl, fun j hj => ⟨?_, ?_⟩, fun x hx => ?_⟩
    · refine (Memory.read_writePage hwf ..).trans ((if_pos (by omega)).trans ?_)
      rw [Nat.add_sub_cancel_left, fillByte_even]
    · refine (Memory.read_writePage hwf ..).trans ((if_pos (by omega)).trans ?_)
      rw [Nat.add_assoc, Nat.add_sub_cancel_left, fillByte_odd]
    · exact (Memory.read_writePage hwf ..).trans (if_neg (by omega))
  case fill => exact fun _ _ => if_neg (by simp [hb])
  case enable => exact if_neg (by simp [hb])
  case busy =>
    have hc := pageCheck_busy hb a
    exact ⟨flashErase_fault hc, flashProgram_fault hc, fun _ _ => if_pos hb, if_pos hb⟩

end Sys2Proof.Machine
end

section
/-! SUPPORT. FLUSH in every order of agents (43_flash_programmer.md rules R200, R201, R205, R210): the states it waits in, that a
step of another agent stays there, and that the sequencer goes from each to the next. -/

namespace Sys2Proof.Machine

/-! ### Runs, whatever the rest of the script is -/

section
variable {s t u v : State} {e : Event} {es : List Event} {ts : List Task}

theorem returnFromReceiveInterrupt_script (s : State) (fs : List Event) :
    returnFromReceiveInterrupt { s with script := fs } = { returnFromReceiveInterrupt s with script := fs } := by
  rcases returnFromReceiveInterrupt_cases s with ⟨hx, ht, e⟩ | ⟨hx, ht, e⟩ | ⟨hx, e⟩ <;> rw [e]
  · exact (if_pos hx).trans (if_pos ht)
  · exact (if_pos hx).trans (if_neg (by simp [ht]))
  · exact if_neg (show ¬xoffDue s = true by simp [hx])

theorem enqueue_script (b : Byte) (s : State) (fs : List Event) :
    enqueue b { s with script := fs } = { enqueue b s with script := fs } := by
  by_cases hf : s.free = 0
  · rw [enqueue_full hf]
    exact enqueue_full (s := { s with script := fs }) hf b
  · rw [enqueue_room hf]
    exact enqueue_room (s := { s with script := fs }) hf b

theorem takeReceiveInterrupt_script (s : State) (fs : List Event) :
    takeReceiveInterrupt { s with script := fs } = { takeReceiveInterrupt s with script := fs } := by
  cases hr : s.rxHw with
  | nil => simp only [takeReceiveInterrupt, hr]
  | cons b bs =>
    simp only [takeReceiveInterrupt, hr]
    exact enqueue_script b { s with rxHw := bs } fs

theorem peerStep_script (b : Byte) (s : State) (fs : List Event) :
    peerStep b { s with script := fs } = { peerStep b s with script := fs } := by
  by_cases hr : s.rxHw.length < s.cfg.rxHwDepth
  · rw [peerStep_room hr]
    exact peerStep_room (s := { s with script := fs }) hr b
  · rw [peerStep_full (Nat.le_of_not_lt hr)]
    exact peerStep_full (s := { s with script := fs }) (Nat.le_of_not_lt hr) b

/-- The other agents do not read the script. -/
theorem agentStep_script (he : e ≠ .sequencer) (hx : agentStep e s = .next t) (fs : List Event) :
    agentStep e { s with script := fs } = .next { t with script := fs } := by
  rcases agentStep_next hx with
    ⟨h, -⟩ | ⟨h, -⟩ | ⟨rfl, hh, ht⟩ | ⟨rfl, hh, hr, hv, ht⟩ | ⟨rfl, hh, hr, ht⟩ | ⟨rfl, ht⟩ | ⟨rfl, ht⟩ | ⟨b, rfl, ht⟩ |
    ⟨rfl, ht⟩
  · exact absurd h he
  · exact absurd h he
  · rw [ht, ← returnFromReceiveInterrupt_script]
    exact if_pos hh
  · rw [ht, ← returnFromReceiveInterrupt_script, ← takeReceiveInterrupt_script]
    exact (if_neg (by simp [hh])).trans ((if_pos hr).trans ((if_pos hv).trans (if_pos hr)))
  · rw [ht]
    exact (if_neg (by simp [hh])).trans (if_neg (show ¬receiveEnabled s = true by simp [hr]))
  · rw [ht]; rfl
  · rw [ht]; rfl
  · rw [ht, ← peerStep_script]; rfl
  · rw [ht]; rfl

/-- A run that answers begins with a step that answers, and goes on from there. -/
theorem plays_cons_next (ha : s.cfg.Admissible) (h : s.plays (e :: es) = .next u) :
    ∃ t, agentStep e { s with script := es } = .next t ∧ core.run es.length t = .next u := by
  simp only [State.plays, List.length_cons, Host.Core.run, step_scripted ha] at h
  cases hx : agentStep e { s with script := es } with
  | next t => simp only [hx] at h; exact ⟨t, rfl, h⟩
  | fault f => simp only [hx] at h; cases h
  | refused r => simp only [hx] at h; cases h

theorem Leads.keeps_inv (hl : Leads [e] s t) (h : s.Inv) : t.Inv := by
  obtain ⟨u, hx, hu⟩ := plays_cons_next h.admissible hl.plays
  obtain rfl : u = { t with script := [] } := Host.Outcome.next.inj hu
  have hkept := invKept { s with script := [e] } _ { h with } ((step_scripted h.admissible e []).trans hx)
  exact { hkept with }

/-! ### The end of a FLUSH -/

theorem State.FlushEnds.nil (h : u.todo = ts) : u.FlushEnds ts [] { u with script := [] } where
  runs := rfl
  done := h
  notBefore := nofun

theorem State.FlushEnds.cons (h : v.FlushEnds ts es t) (hl : Leads [e] u v) (hu : u.todo ≠ ts) :
    u.FlushEnds ts (e :: es) t where
  runs := (hl es).trans h.runs
  done := h.done
  notBefore
    | 0, _, w, hw => by
      obtain rfl : { u with script := [] } = w := Host.Outcome.next.inj hw
      exact hu
    | n + 1, hn, w, hw => h.notBefore n (Nat.lt_of_succ_lt_succ hn) w ((hl _).symm.trans hw)

theorem State.FlushEnds.rest (h : u.FlushEnds ts (e :: es) t) (hl : Leads [e] u v) : v.FlushEnds ts es t where
  runs := (hl es).symm.trans h.runs
  done := h.done
  notBefore n hn w hw := h.notBefore (n + 1) (Nat.succ_lt_succ hn) w ((hl _).trans hw)

/-- Where nothing of the FLUSH is left to be done its run is at its end. -/
theorem State.FlushEnds.of_done (h : v.FlushEnds ts es t) (hv : v.todo = ts) : t = { v with script := [] } := by
  cases es with
  | nil => exact (Host.Outcome.next.inj h.runs).symm
  | cons e es => exact absurd hv (h.notBefore 0 (Nat.succ_pos _) { v with script := [] } rfl)

end

/-! ### A step of another agent -/

/-- `s` with the registers of `t` that agents other than the sequencer write. -/
def State.beside (s t : State) : State :=
  { s with
    script := t.script, rxHw := t.rxHw, rxbuf := t.rxbuf, head := t.head, tail := t.tail, free := t.free,
    paused := t.paused, txReady := t.txReady, wireIn := t.wireIn, wireOut := t.wireOut, flowOut := t.flowOut,
    held := t.held, spmBusy := t.spmBusy }

section
variable {s t : State} {e : Event}

theorem TransportOnly.eq_beside (h : TransportOnly s t) : t = s.beside t := by
  rw [TransportOnly] at h
  rw [h]
  rfl

theorem agentStep_beside (he : e ≠ .sequencer) (hx : agentStep e s = .next t) : t = s.beside t := by
  cases e with
  | sequencer => exact absurd rfl he
  | receive => exact (receiveStep_transportOnly hx).eq_beside
  | transmitter => obtain rfl := Host.Outcome.next.inj hx; rfl
  | flashEngine => obtain rfl := Host.Outcome.next.inj hx; rfl
  | peer b =>
    obtain rfl := Host.Outcome.next.inj hx
    rcases peerStep_cases b s with ⟨-, h⟩ | ⟨-, h⟩ <;> rw [h] <;> rfl
  | peerTakes => obtain rfl := Host.Outcome.next.inj hx; rfl

end

/-- The relations between registers hold when the other agents' registers are those of another sound state. -/
theorem State.Inv.beside {s u : State} (hs : s.Inv) (hu : u.Inv) (hc : u.cfg = s.cfg) : (s.beside u).Inv :=
  { hs with
    rxbuf_length := hc ▸ hu.rxbuf_length
    head_lt := hc ▸ hu.head_lt
    tail_lt := hc ▸ hu.tail_lt
    free_le := hc ▸ hu.free_le
    ring := hc ▸ hu.ring
    rxHw_length := hc ▸ hu.rxHw_length }

/-! ### The states FLUSH waits in -/

/-- FLUSH waits for the port, with `ts` left after it (rule R201). -/
def State.eraseWait (s : State) (ts : List Task) (busy : Bool) : State :=
  { s with todo := .flushErase :: ts, I := false, isave := s.I :: s.isave, spmBusy := busy }

/-- FLUSH waits for the page to be erased. -/
def State.programWait (s : State) (ts : List Task) (busy : Bool) : State :=
  { s with
    todo := .flushProgram :: ts, I := false, isave := s.I :: s.isave, spmBusy := busy, rwwEnabled := false,
    flash := s.erasedFlash }

/-- FLUSH waits for the page to be programmed. -/
def State.enableWait (s : State) (ts : List Task) (busy : Bool) : State :=
  { s with
    todo := .flushEnable :: ts, I := false, isave := s.I :: s.isave, spmBusy := busy, rwwEnabled := false,
    fill := s.pageWords, flash := s.pageFlushed.flash }

/-- `s` with FLUSH as its next task, and the states that FLUSH then waits in, with the port busy or not. -/
inductive State.FlushWait (s : State) (ts : List Task) (busy : Bool) : State → Prop
  | begin (ht : s.todo = .run .flush :: ts) : FlushWait s ts busy { s with spmBusy := busy }
  | erase : FlushWait s ts busy (s.eraseWait ts busy)
  | program : FlushWait s ts busy (s.programWait ts busy)
  | enable : FlushWait s ts busy (s.enableWait ts busy)

section
variable {s w : State} {busy : Bool} {ts : List Task}

theorem State.FlushWait.todo_ne (h : s.FlushWait ts busy w) : w.todo ≠ ts := by
  obtain ⟨k, hk⟩ : ∃ k, w.todo = k :: ts := by
    cases h with
    | begin ht => exact ⟨_, ht⟩
    | _ => exact ⟨_, rfl⟩
  rw [hk]
  exact List.cons_ne_self k ts

theorem State.FlushWait.cfg_eq (h : s.FlushWait ts busy w) : w.cfg = s.cfg := by cases h <;> rfl

/-- Where FLUSH waits does not depend on what the other agents write. -/
theorem State.FlushWait.beside (h : s.FlushWait ts busy w) (t : State) :
    (s.beside t).FlushWait ts t.spmBusy (w.beside t) := by
  cases h with
  | begin ht => exact .begin ht
  | erase => exact .erase
  | program => exact .program
  | enable => exact .enable

end

/-! ### The sequencer's steps -/

/-- FLUSH's last part with the port free (rules R201, R204). -/
theorem flushEnable_free {s : State} (hb : s.spmBusy = false) :
    flushEnable s = .next (leaveSection { s with rwwEnabled := true }) := by
  rw [flushEnable, if_neg (by simp [hb]), flashRwwEnable, if_neg (by simp [hb])]

/-- FLUSH's first part on a free port, begun in `s` (rules R201, R202). -/
theorem flushErase_begun {s : State} (hi : s.Inv) (hlt : s.pageStart.toNat < s.cfg.bootStart.toNat) (ts : List Task)
    (fs : List Event) : flushErase (enterSection { s.left ts with script := fs, spmBusy := false }) =
      .next { s.programWait ts true with script := fs } :=
  flushErase_free (s := enterSection { s.left ts with script := fs, spmBusy := false }) { hi with } rfl hlt

section
variable {s w : State} {busy : Bool} {ts : List Task} (hi : s.Inv) (hh : s.held = false)
include hi hh

/-- FLUSH's last part leaves the section with the page flushed. -/
theorem Leads.flushEnds : Leads [.sequencer] (s.enableWait ts false) (s.left ts).pageFlushed :=
  .task hi.admissible hh rfl fun fs => flushEnable_free (s := { s.enableWait ts false with todo := ts, script := fs }) rfl

/-- A wait of FLUSH with the port busy (rule R201). -/
theorem State.FlushWait.waits (h : s.FlushWait ts true w) : ∃ v, Leads [.sequencer] w v ∧ s.FlushWait ts true v := by
  cases h with
  | begin ht => exact ⟨_, .task hi.admissible hh ht fun _ => rfl, .erase⟩
  | erase => exact ⟨_, .task hi.admissible hh rfl fun _ => rfl, .erase⟩
  | program => exact ⟨_, .task hi.admissible hh rfl fun _ => rfl, .program⟩
  | enable => exact ⟨_, .task hi.admissible hh rfl fun _ => rfl, .enable⟩

variable (hlt : s.pageStart.toNat < s.cfg.bootStart.toNat)
include hlt

/-- FLUSH as the next task erases the page. -/
theorem Leads.flushBegins (ht : s.todo = .run .flush :: ts) :
    Leads [.sequencer] { s with spmBusy := false } (s.programWait ts true) :=
  .task hi.admissible hh ht (flushErase_begun hi hlt ts)

/-- FLUSH erases the page after its first wait. -/
theorem Leads.flushErases : Leads [.sequencer] (s.eraseWait ts false) (s.programWait ts true) :=
  .task hi.admissible hh rfl (flushErase_begun hi hlt ts)

/-- FLUSH programs the page after its second wait. -/
theorem Leads.flushPrograms : Leads [.sequencer] (s.programWait ts false) (s.enableWait ts true) :=
  .task hi.admissible hh rfl fun fs =>
    flushProgram_erased (s := enterSection { s.left ts with script := fs }) { hi with } hlt

/-- The sequencer waits on, goes on to the next wait, or ends the FLUSH. -/
theorem State.FlushWait.sequencer (h : s.FlushWait ts busy w) :
    ∃ v, Leads [.sequencer] w v ∧ ((∃ b, s.FlushWait ts b v) ∨ v = (s.left ts).pageFlushed) := by
  cases busy with
  | true =>
    obtain ⟨v, hl, hv⟩ := h.waits hi hh
    exact ⟨v, hl, .inl ⟨_, hv⟩⟩
  | false =>
    cases h with
    | begin ht => exact ⟨_, .flushBegins hi hh hlt ht, .inl ⟨_, .program⟩⟩
    | erase => exact ⟨_, .flushErases hi hh hlt, .inl ⟨_, .program⟩⟩
    | program => exact ⟨_, .flushPrograms hi hh hlt, .inl ⟨_, .enable⟩⟩
    | enable => exact ⟨_, .flushEnds hi hh, .inr rfl⟩

end

/-! ### FLUSH in every order of agents -/

/-- FLUSH, begun in `s`, is under way in `u`: the sequencer has taken it to one of its waits, and what else has changed the
other agents have written. -/
structure State.FlushUnderway (s : State) (ts : List Task) (u : State) : Prop where
  inv : u.Inv
  waits : (s.beside u).FlushWait ts u.spmBusy u

/-- FLUSH, begun in `s`, has just ended in `t`, and what else has changed the other agents have written. -/
structure State.FlushDone (s : State) (ts : List Task) (t : State) : Prop where
  inv : t.Inv
  flushed : t = ((s.beside t).left ts).pageFlushed

section
variable {s t u : State} {ts : List Task} {e : Event} {es fs : List Event}

theorem State.FlushUnderway.begun (hs : s.Inv) (ht : s.todo = .run .flush :: ts) : s.FlushUnderway ts s := ⟨hs, .begin ht⟩

/-- The sequencer's step from a wait of FLUSH leads to a wait or to the end; while an RXISR is held it is none (rule R324). -/
theorem State.FlushUnderway.sequencer (h : s.FlushUnderway ts u) (hs : s.Inv)
    (hlt : s.pageStart.toNat < s.cfg.bootStart.toNat) :
    ∃ v, Leads [.sequencer] u v ∧ (s.FlushUnderway ts v ∨ s.FlushDone ts v) := by
  obtain ⟨hu, hw⟩ := h
  cases hh : u.held with
  | true => exact ⟨u, .one hu.admissible fun fs => if_pos hh, .inl ⟨hu, hw⟩⟩
  | false =>
    obtain ⟨v, hl, ⟨b, hv⟩ | hv⟩ := hw.sequencer (hs.beside hu hw.cfg_eq) hh hlt
    · exact ⟨v, hl, .inl ⟨hl.keeps_inv hu, hv.beside v⟩⟩
    · exact ⟨v, hl, .inr ⟨hl.keeps_inv hu, hv ▸ rfl⟩⟩

/-- Another agent's step leaves FLUSH where it waits. -/
theorem State.FlushUnderway.other (h : s.FlushUnderway ts u) (he : e ≠ .sequencer)
    (hx : agentStep e { u with script := fs } = .next t) : Leads [e] u t ∧ s.FlushUnderway ts t := by
  have hl : Leads [e] u t := .one h.inv.admissible (agentStep_script (s := { u with script := fs }) he hx)
  have ht : t = u.beside t := agentStep_beside (s := { u with script := fs }) he hx
  have hw : (s.beside t).FlushWait ts t.spmBusy (u.beside t) := h.waits.beside t
  rw [← ht] at hw
  exact ⟨hl, hl.keeps_inv h.inv, hw⟩

/-- However a run goes on from a wait of FLUSH, when the FLUSH completes it has flushed the page (rules R200, R201). -/
theorem State.FlushUnderway.ends (h : s.FlushUnderway ts u) (hs : s.Inv)
    (hlt : s.pageStart.toNat < s.cfg.bootStart.toNat) (he : u.FlushEnds ts es t) : s.FlushDone ts t := by
  induction es generalizing u with
  | nil =>
    obtain rfl := Host.Outcome.next.inj he.runs
    exact absurd he.done h.waits.todo_ne
  | cons e es ih =>
    by_cases hseq : e = .sequencer
    · subst hseq
      obtain ⟨v, hl, hv | ⟨hinv, hv⟩⟩ := h.sequencer hs hlt
      · exact ih hv (he.rest hl)
      · rw [(he.rest hl).of_done (congrArg State.todo hv)]
        exact ⟨{ hinv with }, congrArg (fun v : State => { v with script := [] }) hv⟩
    · obtain ⟨v, hx, -⟩ := plays_cons_next h.inv.admissible he.runs
      obtain ⟨hl, hv⟩ := h.other hseq hx
      exact ih hv (he.rest hl)

theorem State.FlushDone.cfg_eq (h : s.FlushDone ts t) : t.cfg = s.cfg := by
  rw [h.flushed]
  rfl

/-- What has become of the registers when the FLUSH has ended (rule R200). -/
theorem State.FlushDone.contract (h : s.FlushDone ts t) (hs : s.Inv) :
    t.spmBusy = false ∧ t.rwwEnabled = true ∧ t.I = s.I ∧ t.isave = s.isave ∧ t.seq = s.seq ∧
      t.pageStart = s.pageStart ∧ t.pagebuf = s.pagebuf ∧ t.dirty = s.dirty ∧
      ∀ x, Memory.read t.flash x =
        if s.pageStart.toNat ≤ x ∧ x < s.pageStart.toNat + s.cfg.pageSize then s.pagebuf.getD (x - s.pageStart.toNat) 0
        else Memory.read s.flash x := by
  have hflash : t.flash = s.pageFlushed.flash := by rw [h.flushed]; rfl
  refine ⟨?_, ?_, ?_, ?_, ?_, ?_, ?_, ?_, fun x => hflash ▸ State.pageFlushed_read hs x⟩ <;> rw [h.flushed] <;> rfl

end

/-! ### The order in which FLUSH completes -/

section
variable {s u : State} {ts : List Task} (hi : s.Inv) (hh : s.held = false)
  (hlt : s.pageStart.toNat < s.cfg.bootStart.toNat)

theorem State.port_eq {b : Bool} (hb : s.spmBusy = b) : { s with spmBusy := b } = s := by rw [← hb]

include hi hh hlt

/-- The sequencer begins the erase, and the flash engine ends each wait that is then left (rules R201, R210). -/
theorem State.FlushEnds.of_erase (he : Leads [.sequencer] u (s.programWait ts true)) (hu : u.todo ≠ ts) :
    u.FlushEnds ts flushEvents { (s.left ts).pageFlushed with script := [] } := by
  have hpage : Leads [.flashEngine] (s.programWait ts true) (s.programWait ts false) := .flashEngine hi.admissible
  have hwrite : Leads [.flashEngine] (s.enableWait ts true) (s.enableWait ts false) := .flashEngine hi.admissible
  have hdone := State.FlushEnds.nil (u := (s.left ts).pageFlushed) (ts := ts) rfl
  have hfree := hdone.cons (Leads.flushEnds hi hh) State.FlushWait.enable.todo_ne
  have hwritten := hfree.cons hwrite State.FlushWait.enable.todo_ne
  have herased := hwritten.cons (Leads.flushPrograms hi hh hlt) State.FlushWait.program.todo_ne
  exact (herased.cons hpage State.FlushWait.program.todo_ne).cons he hu

variable (ht : s.todo = .run .flush :: ts)
include ht

theorem State.flushEnds_free (hb : s.spmBusy = false) :
    s.FlushEnds ts flushEvents { (s.left ts).pageFlushed with script := [] } := by
  have hbegin := Leads.flushBegins hi hh hlt ht
  rw [State.port_eq hb] at hbegin
  exact .of_erase hi hh hlt hbegin (State.FlushWait.begin (busy := s.spmBusy) ht).todo_ne

theorem State.flushEnds_busy (hb : s.spmBusy = true) :
    s.FlushEnds ts ([.sequencer, .flashEngine] ++ flushEvents) { (s.left ts).pageFlushed with script := [] } := by
  have hwait : Leads [.sequencer] { s with spmBusy := true } (s.eraseWait ts true) :=
    .task hi.admissible hh ht fun _ => rfl
  rw [State.port_eq hb] at hwait
  have hport : Leads [.flashEngine] (s.eraseWait ts true) (s.eraseWait ts false) := .flashEngine hi.admissible
  have hrest := State.FlushEnds.of_erase (ts := ts) hi hh hlt (Leads.flushErases hi hh hlt) State.FlushWait.erase.todo_ne
  have herase := hrest.cons hport State.FlushWait.erase.todo_ne
  exact herase.cons hwait (State.FlushWait.begin (busy := s.spmBusy) ht).todo_ne

/-- FLUSH completes in some order, in a state that the next can begin in. -/
theorem State.exists_flushEnds : ∃ es t, s.FlushEnds ts es t ∧ t.Inv ∧ t.held = false ∧
    t.pageStart.toNat < t.cfg.bootStart.toNat := by
  have hinv := (hi.left ts).pageFlushed (Nat.lt_of_lt_of_le hlt hi.bootStart_le)
  cases hb : s.spmBusy with
  | false => exact ⟨_, _, State.flushEnds_free hi hh hlt ht hb, { hinv with }, hh, hlt⟩
  | true => exact ⟨_, _, State.flushEnds_busy hi hh hlt ht hb, { hinv with }, hh, hlt⟩

end

/-- Settles O29: every order goes through the waits of FLUSH, and `flushEvents` takes each in turn. -/
theorem flushContract : Obligations.FlushContract := by
  refine fun s ts hs ht hlt => ⟨fun es t he => ?_, fun hh => ?_⟩
  · exact ((State.FlushUnderway.begun hs ht).ends hs hlt he).contract hs
  · exact ⟨_, State.flushEnds_free hs hh hlt ht, State.flushEnds_busy hs hh hlt ht, rfl⟩

/-- Settles O30: the page the second FLUSH writes is in flash already, and the first leaves a sound state to begin it in. -/
theorem flushTwice : Obligations.FlushTwice := by
  refine fun s ts hs hlt ht => ⟨fun es fs t u het htu x => ?_, fun hh => ?_⟩
  · have hfirst := (State.FlushUnderway.begun hs ht).ends hs hlt het
    obtain ⟨-, -, -, -, -, hpage, hbuf, -, hread⟩ := hfirst.contract hs
    have hcfg : t.cfg = s.cfg := hfirst.cfg_eq
    have hsecond := (State.FlushUnderway.begun hfirst.inv het.done).ends hfirst.inv (hcfg ▸ hpage ▸ hlt) htu
    obtain ⟨-, -, -, -, -, -, -, -, hread'⟩ := hsecond.contract hfirst.inv
    rw [hread', hpage, hbuf, hcfg]
    split
    · rename_i hx
      rw [hread, if_pos hx]
    · rfl
  · obtain ⟨es, t, het, hi, hh', hlt'⟩ := State.exists_flushEnds hs hh hlt ht
    obtain ⟨fs, u, htu, -⟩ := State.exists_flushEnds hi hh' hlt' het.done
    exact ⟨es, fs, t, u, het, htu⟩

end Sys2Proof.Machine
end

section
/-! SUPPORT. The command sequencer's answers (44_command_sequencer.md rules R222 to R228, R234, R236): a status byte computed and
sent, or left to be sent, before what the sequencer does next; the header phase; Quit's run and the records' actions. -/

namespace Sys2Proof.Machine

/-! ### A status byte, and what is left after it (rules R130, R222) -/

/-- The instruction computes the status byte into `reply` and sends it, or waits as itself (log entry 11). -/
def Reports (i : Instr) (b : Byte) : Prop := ∀ s, exec i s = .next (transmit b (.run i) { s with reply := b })

/-- The state in which a status byte has been computed and sent, and `ts` is left. -/
def State.sentReply (s : State) (b : Byte) (ts : List Task) : State :=
  { s with reply := b, txReady := false, wireOut := s.wireOut ++ [b], todo := ts }

section
variable {s : State} {i : Instr} {b : Byte} {k : Task} {ts : List Task}

theorem Reports.ready (h : Reports i b) (htx : s.txReady = true) (ht : s.todo = ts) :
    exec i (push k s) = .next (s.sentReply b (k :: ts)) := by
  subst ht
  exact (h _).trans (congrArg Host.Outcome.next (transmit_ready (s := { push k s with reply := b }) htx ..))

theorem Reports.busy (h : Reports i b) (htx : s.txReady = false) (ht : s.todo = ts) :
    exec i (push k s) = .next { s with reply := b, todo := .run i :: k :: ts } := by
  subst ht
  exact (h _).trans (congrArg Host.Outcome.next (transmit_busy (s := { push k s with reply := b }) htx ..))

/-- With the transmit register free a status byte goes out in one step, and the sequencer moves on in the next. -/
theorem Leads.report (h : Reports i b) (ha : s.cfg.Admissible) (hh : s.held = false) (htx : s.txReady = true)
    {q : SeqState} (ht : s.todo = .run i :: .goto q :: ts) :
    Leads [.sequencer, .sequencer] s { s.sentReply b ts with seq := q } := by
  have hsend : Leads [.sequencer] s (s.sentReply b (.goto q :: ts)) :=
    .task ha hh ht fun fs => h.ready (s := { s with todo := ts, script := fs }) htx rfl
  have hgo : Leads [.sequencer] (s.sentReply b (.goto q :: ts)) { s.sentReply b ts with seq := q } :=
    .task ha hh rfl fun _ => rfl
  exact hsend.trans hgo

end

/-! ### The header phase (rule R224) -/

/-- A bad digit in a header is one of the byte count or of the record type, which share a status row (41_hex_decoder.md rule
R163, 60_exceptions.md rule R266). -/
theorem statusOfError_decHdr {h : Header} {f : Field} (he : decHdr h = .error (.hexDigit f)) :
    statusOfError (.hexDigit f) = .stsErrDecode := by
  unfold decHdr at he
  split at he
  · simp at he
  · split at he
    · cases he; rfl
    · split at he
      · cases he; rfl
      · simp at he

/-- The state in which the nine characters have been taken as a header and decoded. -/
def State.headerTaken (s : State) (h : Header) (rest : List Byte) (r : Result) : State :=
  { s with hdr := h, got := rest, res := r }

section
variable {s : State} {h : Header} {rest : List Byte}

theorem advance_of_uploadHdr (hq : s.seq = .uploadHdr) : advance s = headerPhase s := by
  rw [advance, hq]

/-- The header is read on while a character of it is missing. -/
theorem headerPhase_reading (hg : s.got.length < 9) : headerPhase s = exec .recv s := by
  rw [headerPhase, headerOf_none.mpr hg]

section
variable (hg : s.got = headerChars h ++ rest)
include hg

theorem headerPhase_error {e : BlockError} (he : decHdr h = .error e) :
    headerPhase s = exec (statusOfError e) (push (.goto .awaitCmd) (s.headerTaken h rest (.error e))) := by
  rw [headerPhase, hg, headerOf_headerChars]
  simp only [he]
  rfl

theorem headerPhase_data {n : Byte} (hd : decHdr h = .ok (n, 0x00)) :
    headerPhase s = exec .okHeaderAccepted (push (.goto .uploadBody) (s.headerTaken h rest (.header n 0x00))) := by
  rw [headerPhase, hg, headerOf_headerChars]
  simp only [hd]
  rfl

theorem headerPhase_eof {n : Byte} (hd : decHdr h = .ok (n, 0x01)) :
    headerPhase s = .next { s.headerTaken h rest (.header n 0x01) with seq := .uploadBody } := by
  rw [headerPhase, hg, headerOf_headerChars]
  simp only [hd]
  rfl

theorem headerPhase_unimplemented {n t : Byte} (hd : decHdr h = .ok (n, t)) (h0 : t ≠ 0x00) (h1 : t ≠ 0x01) :
    headerPhase s = exec .stsNotImplemented (push (.goto .awaitCmd) (s.headerTaken h rest (.header n t))) := by
  rw [← exec_unimplementedRecord t n (headerAddr h), headerPhase, hg, headerOf_headerChars]
  simp only [hd, if_neg h0, if_neg h1]
  rfl

end

end

/-- Settles O42: the phase reads, moves on to the body, or ends in one status row, which is sent or waits. -/
theorem Settled.headerPhase : Obligations.HeaderPhase := by
  intro s h ht hq
  rw [step_of_nothing_left h ht, advance_of_uploadHdr ((afterChoice_seq s).trans hq), ← afterChoice_txReady s,
    ← afterChoice_wireOut s, ← afterChoice_got s]
  rw [← afterChoice_todo s] at ht
  generalize afterChoice s = u at ht ⊢
  refine ⟨headerPhase_reading, fun h rest hg => ⟨fun n => headerPhase_eof hg, fun htx => ⟨fun he => ?_, fun f he => ?_,
    fun n hd => ?_, fun n t hd h0 h1 => ?_⟩, fun htx => ⟨fun he => ?_, fun f he => ?_, fun n hd => ?_,
    fun n t hd h0 h1 => ?_⟩⟩⟩
  · exact (headerPhase_error hg he).trans (Reports.ready (fun _ => rfl) htx ht)
  · exact (statusOfError_decHdr he ▸ headerPhase_error hg he).trans (Reports.ready (fun _ => rfl) htx ht)
  · exact (headerPhase_data hg hd).trans (Reports.ready (fun _ => rfl) htx ht)
  · exact (headerPhase_unimplemented hg hd h0 h1).trans (Reports.ready (fun _ => rfl) htx ht)
  · exact (headerPhase_error hg he).trans (Reports.busy (fun _ => rfl) htx ht)
  · exact (statusOfError_decHdr he ▸ headerPhase_error hg he).trans (Reports.busy (fun _ => rfl) htx ht)
  · exact (headerPhase_data hg hd).trans (Reports.busy (fun _ => rfl) htx ht)
  · exact (headerPhase_unimplemented hg hd h0 h1).trans (Reports.busy (fun _ => rfl) htx ht)

/-- Settles O38: all five kinds run one status row before the way back. -/
theorem unimplementedRecords : Obligations.UnimplementedRecords := by
  intro s t n a u hready hbusy
  have hx : exec .stsNotImplemented (push (.goto .awaitCmd) s) = .next u := by
    cases htx : s.txReady with
    | true => exact (Reports.ready (fun _ => rfl) htx rfl).trans (congrArg _ (hready htx).symm)
    | false => exact (Reports.busy (fun _ => rfl) htx rfl).trans (congrArg _ (hbusy htx).symm)
  exact ⟨hx, hx, hx, hx, hx⟩

/-! ### Quit and the hand-off (rules R234, R236) -/

/-- Settles O33, by the meaning of HANDOFF. -/
theorem handoffCompletes : Obligations.HandoffCompletes := fun _ => rfl

/-- The state after the Quit command has been read and acknowledged. -/
def quitting (s : State) : State :=
  { (received 0x71 s).sentReply 0x40 s.todo with cmd := 0x71, got := [], seq := .quit }

/-- Settles O37: the command byte is read, its status byte sent, and control handed off. -/
theorem quitEndsTheRun : Obligations.QuitEndsTheRun := by
  intro s rest h
  have ha := h.inv.admissible
  have hquit : Leads [.sequencer] (received 0x71 s) (quitting s) :=
    .advance ha h.notHeld h.todo fun fs => (h.advance_dispatches fs).trans (congrArg Host.Outcome.next (transmit_ready
      (s := { received 0x71 s with cmd := 0x71, got := [], seq := .quit, reply := 0x40, script := fs }) h.txReady ..))
  have hleave : Leads [.sequencer] (quitting s)
      { quitting s with active := false, I := false, ivsel := false, seq := .handedOff, todo := [] } :=
    .advance ha h.notHeld h.todo fun fs => handoffCompletes { quitting s with active := false, script := fs }
  refine ((h.leads_received.trans hquit).trans hleave).plays.trans (congrArg Host.Outcome.next ?_)
  simp only [quitting, State.sentReply, received, h.got, h.todo]

/-! ### DATA and END_OF_FILE (rules R226, R227) -/

section
variable {s u : State} {a : Word16} {p : List Byte} {ts : List Task}

/-- STAGE completes with the payload written over the image (42_page_buffer.md rules R180, R182). -/
theorem stageDone (h : s.Stageable) (hp : BelowBoundary s.cfg a p) :
    ∃ t, s.Reimaged t (writeImage s.image a p) ∧ Completes (execStage a p) s t := by
  have hsection : (enterSection s).Stageable := { h with inv := h.inv.enterSection }
  obtain ⟨t, hi, hdone⟩ := stageLoopDone hsection hp
  exact ⟨leaveSection t, {
    image := hi.image
    stageable := { hi.stageable with inv := hi.stageable.inv.leaveSection }
    frame := congrArg leaveSection hi.frame
    port := hi.port }, .of_eq hdone fun _ => rfl⟩

/-- A DATA record as the next task: its run stages the payload, and the reply and the next header are left. -/
theorem Reaches.recData (h : s.Stageable) (ht : s.todo = .run (.recData a p) :: ts) (hp : BelowBoundary s.cfg a p) :
    ∃ t, Reaches s t ∧
      (s.left (.run .okLineCommitted :: .goto .uploadHdr :: ts)).Reimaged t (writeImage s.image a p) := by
  obtain ⟨t, hi, hdone⟩ := stageDone (h.left (.run .okLineCommitted :: .goto .uploadHdr :: ts)) hp
  have hrun : Completes (runTask (.run (.recData a p))) (s.left ts) t := .of_eq hdone fun _ => rfl
  exact ⟨t, hrun.reaches h.inv.admissible h.notHeld ht, hi⟩

/-- FLUSHPENDING with a page staged and the port free, begun in `s`: the page is flushed and retired (42_page_buffer.md rule
R186). -/
theorem Leads.flushPending (ha : u.cfg.Admissible) (hh : u.held = false)
    (hx : ∀ fs, sequencerStep { u with script := fs } = execFlushPending { s with script := fs })
    (h : s.Inv) (hn : s.held = false) (hd : s.dirty = true) (hb : s.spmBusy = false)
    (hlt : s.pageStart.toNat < s.cfg.bootStart.toNat) :
    Leads (flushEvents ++ [.sequencer]) u { s.pageFlushed with dirty := false } := by
  have hflush := Leads.flush (s := enterSection (push .retire (enterSection s))) ha hh
    (fun fs => (hx fs).trans (execFlushPending_dirty (s := { s with script := fs }) hd))
    (h.enterSection.push _).enterSection hn hb hlt
  exact hflush.trans (.retire (s := s.pageFlushed) h.admissible hn)

end

/-- Settles O39: the run of STAGE, the transmitter's step, then the reply and the step back to the header. -/
theorem dataRecordCommits : Obligations.DataRecordCommits := by
  intro s a p hi hh hr ht hp hbelow
  obtain ⟨t, ⟨es, hes, hst⟩, him⟩ := Reaches.recData ⟨hi, hh, hr, hbelow⟩ ht hp
  have ha := him.stageable.inv.admissible
  have hreply := Leads.report (s := transmitterStep t) (i := .okLineCommitted) (b := 0x03) (fun _ => rfl) ha
    him.stageable.notHeld rfl him.todo_eq
  have hplays := ((hst.trans (.transmitter ha)).trans hreply).plays
  refine ⟨_, _, ?_, hplays, congrFun him.image, ?_⟩
  · simp only [List.mem_append, List.mem_cons, List.not_mem_nil, or_false]
    rintro e ((he | rfl) | rfl | rfl)
    · exact (hes e he).imp_right .inl
    · exact .inr (.inr rfl)
    · exact .inl rfl
    · exact .inl rfl
  · rw [him.frame]
    simp only [State.sentReply, transmitterStep, State.withPages, State.left]

/-- Settles O40: FLUSHPENDING does nothing on a clean buffer and else flushes and retires the page; the reply and the step to
the command loop are what it leaves. -/
theorem endOfFileRecord : Obligations.EndOfFileRecord := by
  intro s a p
  refine ⟨fun hd => execFlushPending_clean hd, fun hi hh htx ht => ⟨fun hd => ?_, fun hd hb hlt => ?_⟩⟩
  · have hclean : Leads [.sequencer] s (s.left [.run .okFinished, .goto .awaitCmd]) :=
      .task hi.admissible hh ht fun fs =>
        execFlushPending_clean (s := { s.left [.run .okFinished, .goto .awaitCmd] with script := fs }) hd
    have hreply := Leads.report (s := s.left [.run .okFinished, .goto .awaitCmd]) (b := 0x04) (fun _ => rfl)
      hi.admissible hh htx rfl
    exact (hclean.trans hreply).plays
  · have hflush := Leads.flushPending (s := s.left [.run .okFinished, .goto .awaitCmd]) hi.admissible hh
      (fun fs => sequencerStep_of_task (s := { s with script := fs }) ht) (hi.left _) hh hd hb hlt
    have hreply := Leads.report
      (s := { (s.left [.run .okFinished, .goto .awaitCmd]).pageFlushed with dirty := false }) (b := 0x04) (fun _ => rfl)
      hi.admissible hh htx rfl
    have hplays := (hflush.trans hreply).plays
    refine ⟨_, hplays, ?_, ?_⟩
    · simp only [State.sentReply, State.left, State.pageFlushed, hb]
    · exact State.pageFlushed_read (hi.left [.run .okFinished, .goto .awaitCmd])

end Sys2Proof.Machine
end

section
/-! SUPPORT. The receive agent's step by masking and by the held handler (60_exceptions.md rules R270 to R272,
70_reset_and_hazards.md rule R324; log entries 3 and 16). -/

namespace Sys2Proof.Machine

section
variable {s : State}

theorem receiveStep_masked (hh : s.held = false) (h : s.I = false ∨ s.rxHw = []) : receiveStep s = .next s := by
  have he : ¬receiveEnabled s = true := fun he => by
    obtain ⟨hI, hr⟩ := (receiveEnabled_iff s).1 he
    exact h.elim (fun h => by simp [h] at hI) hr
  rw [receiveStep, if_neg (by simp [hh]), if_neg he]

theorem receiveStep_taken (hh : s.held = false) (hI : s.I = true) (hr : s.rxHw ≠ []) (hv : s.ivsel = true) :
    receiveStep s = exec .rxisr s := by
  rw [receiveStep, if_neg (by simp [hh]), if_pos ((receiveEnabled_iff s).2 ⟨hI, hr⟩), if_pos hv]

/-- A held handler ends once the transmit register is free, with XOFF sent. -/
theorem receiveStep_held_ready (hh : s.held = true) (hf : s.free ≤ s.cfg.xoffFree) (hp : s.paused = false)
    (ht : s.txReady = true) : receiveStep s = .next (emitXoff { s with held := false }) := by
  rw [receiveStep, if_pos hh, returnFromReceiveInterrupt_xoff hf hp ht]

/-- A held handler that finds the transmit register busy again leaves the state as it is. -/
theorem receiveStep_held_busy (hh : s.held = true) (hf : s.free ≤ s.cfg.xoffFree) (hp : s.paused = false)
    (ht : s.txReady = false) : receiveStep s = .next s := by
  rw [receiveStep, if_pos hh, returnFromReceiveInterrupt_held hf hp ht, ← hh]

theorem agentStep_sequencer_held (hh : s.held = true) : agentStep .sequencer s = .next s := if_pos hh

end

/-- Settles O19: the choice of the agent writes no field the receive agent reads, so each clause is the agent's own step from
the state after the choice: masked, taken, or the end of a held handler by the transmit register. -/
theorem receiveAgentMasking : Obligations.ReceiveAgentMasking := by
  intro s ha
  obtain ⟨es, n, hchoice⟩ := afterChoice_eq s
  have hstep {e : Event} (he : nextEvent s = e) : step s = agentStep e { s with script := es, tick := n } :=
    hchoice ▸ step_of_event ha he
  rw [hchoice]
  refine ⟨fun he hh hm => ?_, fun he hh hI hr hv => ?_, fun he hh hf hp ht => ?_, fun he hh hf hp ht => ?_,
    fun he hh => ?_⟩
  · exact (hstep he).trans (receiveStep_masked hh hm)
  · exact (hstep he).trans (receiveStep_taken hh hI hr hv)
  · exact (hstep he).trans (receiveStep_held_ready hh hf hp ht)
  · exact (hstep he).trans (receiveStep_held_busy hh hf hp ht)
  · exact (hstep he).trans (agentStep_sequencer_held hh)

end Sys2Proof.Machine
end

section
/-! SUPPORT. Waiting in any order of agents (00_scope.md rules R12 to R14, 70_reset_and_hazards.md rules R312, R324): what the
agents other than the sequencer leave alone, the tasks that wait, and that a wait is kept along a run without the agent it is
for (log entries 2, 3 and 11). -/

namespace Sys2Proof.Machine

/-! ### What keeps a property along a run in a given order -/

section
variable {P : State → Prop} {s t : State} {es : List Event}

theorem run_succ_next {n : Nat} (h : core.run (n + 1) s = .next t) : ∃ u, step s = .next u ∧ core.run n u = .next t := by
  simp only [Host.Core.run] at h
  split at h
  · exact ⟨_, ‹_›, h⟩
  · cases h
  · cases h

/-- What each step of the script's agents keeps, without writing the script, the script's run keeps. -/
theorem run_keeps (hscript : ∀ u fs, P u → P { u with script := fs })
    (hstep : ∀ e ∈ es, ∀ u v, P u → agentStep e u = .next v → P v ∧ v.script = u.script) (hes : s.script = es)
    (hs : P s) (h : core.run es.length s = .next t) : P t := by
  induction es generalizing s with
  | nil => exact Host.Outcome.next.inj h ▸ hs
  | cons e es ih =>
    obtain ⟨u, hx, hrun⟩ := run_succ_next h
    have hagent : agentStep e { s with script := es } = .next u := by
      have hchosen := (step_next hx).2
      rwa [nextEvent, afterChoice, hes] at hchosen
    obtain ⟨hu, hfs⟩ := hstep e List.mem_cons_self _ u (hscript s es hs) hagent
    exact ih (fun e' he' => hstep e' (List.mem_cons_of_mem e he')) hfs hu hrun

theorem plays_keeps (hscript : ∀ u fs, P u → P { u with script := fs })
    (hstep : ∀ e ∈ es, ∀ u v, P u → agentStep e u = .next v → P v ∧ v.script = u.script)
    (hs : P s) (h : s.plays es = .next t) : P t :=
  run_keeps hscript hstep rfl (hscript s es hs) h

end

/-! ### What one agent's step leaves alone -/

section
variable {s t : State} {e : Event}

/-- No agent but the transmitter frees the transmit register, and a byte is sent only into a free one (40_transport.md rules
R130, R138). -/
theorem agentStep_sendsAtMostOne (he : e ≠ .transmitter) (hx : agentStep e s = .next t) : SendsAtMostOne s t := by
  have hr := Frame.refl .rxisr s
  rcases agentStep_next hx with
    ⟨-, -, rfl⟩ | ⟨-, -, hq⟩ | ⟨-, -, rfl⟩ | ⟨-, -, -, -, rfl⟩ | ⟨-, -, -, rfl⟩ | ⟨h, -⟩ | ⟨-, rfl⟩ | ⟨b, -, rfl⟩ | ⟨-, rfl⟩
  · exact .refl t
  · exact (sequencerStep_keepsWires hq).sent
  · exact hr.returnFromInterrupt.sent
  · exact hr.takeInterrupt.returnFromInterrupt.sent
  · exact .refl t
  · exact absurd h he
  · exact .inl ⟨rfl, rfl⟩
  · rcases peerStep_cases b s with ⟨-, h⟩ | ⟨-, h⟩ <;> rw [h] <;> exact .inl ⟨rfl, rfl⟩
  · exact .refl t

/-- With the transmit register busy nothing is sent and it stays busy. -/
theorem SendsAtMostOne.of_busy (h : SendsAtMostOne s t) (hb : s.txReady = false) :
    t.txReady = false ∧ t.wireOut = s.wireOut := by
  rcases h with ⟨hwire, hready⟩ | ⟨hready, -⟩
  · exact ⟨hready.trans hb, hwire⟩
  · rw [hb] at hready; cases hready

/-- What a step of agent `e`, not the sequencer, leaves alone among the registers that other agents write. -/
structure SharedKept (e : Event) (s t : State) : Prop where
  script : t.script = s.script
  receiver : e ≠ .receive → t.free = s.free ∧ t.paused = s.paused ∧ t.held = s.held
  port : e ≠ .flashEngine → t.spmBusy = s.spmBusy

theorem SharedKept.refl (e : Event) (s : State) : SharedKept e s s := ⟨rfl, fun _ => ⟨rfl, rfl, rfl⟩, fun _ => rfl⟩

theorem agentStep_sharedKept (he : e ≠ .sequencer) (hx : agentStep e s = .next t) : SharedKept e s t := by
  cases e with
  | sequencer => exact absurd rfl he
  | receive =>
    have h := receiveStep_transportOnly hx
    exact ⟨by rw [h], fun hr => absurd rfl hr, fun _ => by rw [h]⟩
  | transmitter => obtain rfl := Host.Outcome.next.inj hx; exact { SharedKept.refl _ s with }
  | flashEngine =>
    obtain rfl := Host.Outcome.next.inj hx
    exact { SharedKept.refl _ s with port := fun hf => absurd rfl hf }
  | peer b =>
    obtain rfl := Host.Outcome.next.inj hx
    rcases peerStep_cases b s with ⟨-, h⟩ | ⟨-, h⟩ <;> rw [h] <;> exact { SharedKept.refl _ s with }
  | peerTakes => obtain rfl := Host.Outcome.next.inj hx; exact .refl _ s

end

/-! ### Tasks that wait (log entry 2) -/

/-- Task `k` waits in state `s`: its step leaves it the next to be done and changes nothing but, for a status row, `reply`. -/
def TaskWaits (k : Task) (s : State) : Prop :=
  ∀ ts, ∃ r, runTask k { s with todo := ts } = .next { s with todo := k :: ts, reply := r }

section
variable {s t : State} {k : Task} {ts : List Task}

/-- SEND, a status row or a control row with the transmit register busy (40_transport.md rule R130, log entry 11). -/
theorem taskWaits_of_txBusy {i : Instr} (hi : (∃ b, i = .send b) ∨ spaceOf i = .sts ∨ spaceOf i = .ctl)
    (hb : s.txReady = false) : TaskWaits (.run i) s := by
  intro ts
  rcases hi with ⟨b, rfl⟩ | hi | hi
  · exact ⟨s.reply, (sendCompletes b { s with todo := ts }).2 hb⟩
  · obtain ⟨b, -, hx⟩ := exec_sts hi s.cfg.readyByte
    exact ⟨b, (hx _).trans (congrArg Host.Outcome.next (transmit_busy (s := { s with todo := ts, reply := b }) hb ..))⟩
  · obtain ⟨hxon, hxoff, hready⟩ := (controlBytesComplete { s with todo := ts }).2 hb
    cases i with
    | ctlXon => exact ⟨s.reply, hxon⟩
    | ctlXoff => exact ⟨s.reply, hxoff⟩
    | ctlReady => exact ⟨s.reply, hready⟩
    | _ => cases hi

/-- RECV on an empty queue (40_transport.md rule R134). -/
theorem taskWaits_recv (hf : s.cfg.rxCap ≤ s.free) : TaskWaits (.run .recv) s := fun ts =>
  ⟨s.reply, execRecv_empty (s := { s with todo := ts }) hf⟩

/-- FLUSH's waits for the port (43_flash_programmer.md rule R201). -/
theorem taskWaits_flush (hk : k = .flushErase ∨ k = .flushProgram ∨ k = .flushEnable) (hb : s.spmBusy = true) :
    TaskWaits k s := by
  intro ts
  rcases hk with rfl | rfl | rfl <;> exact ⟨s.reply, if_pos hb⟩

/-- The sequencer's agent, held or not, goes no further than a task that waits. -/
theorem TaskWaits.agentStep_eq (hk : TaskWaits k s) (ht : s.todo = k :: ts) (hx : agentStep .sequencer s = .next t) :
    ∃ r, t = { s with reply := r } := by
  rcases agentStep_next hx with ⟨-, -, rfl⟩ | ⟨-, -, hq⟩ | ⟨⟨⟩, -⟩ | ⟨⟨⟩, -⟩ | ⟨⟨⟩, -⟩ | ⟨⟨⟩, -⟩ | ⟨⟨⟩, -⟩ | ⟨b, ⟨⟩, -⟩ | ⟨⟨⟩, -⟩
  · exact ⟨t.reply, rfl⟩
  · obtain ⟨r, hr⟩ := hk ts
    rw [sequencerStep_of_task ht, hr, ← ht] at hq
    exact ⟨r, (Host.Outcome.next.inj hq).symm⟩

end

/-! ### The waits, each with what stays as it was meanwhile -/

/-- The sending of a byte waits on the transmit register, and `w` has been sent. -/
structure State.WaitsToSend (k : Task) (ts : List Task) (w : List Byte) (s : State) : Prop where
  todo : s.todo = k :: ts
  busy : s.txReady = false
  sent : s.wireOut = w

/-- An RXISR is held in its sending of XOFF, and the sequencer with it; `w` has been sent. -/
structure State.HeldInXoff (ks : List Task) (q : SeqState) (w : List Byte) (s : State) : Prop where
  held : s.held = true
  due : s.free ≤ s.cfg.xoffFree
  notPaused : s.paused = false
  busy : s.txReady = false
  todo : s.todo = ks
  seq : s.seq = q
  sent : s.wireOut = w

/-- RECV waits on an empty queue, with the bytes `got` returned before. -/
structure State.WaitsToReceive (ts : List Task) (free : Nat) (got : List Byte) (s : State) : Prop where
  todo : s.todo = .run .recv :: ts
  empty : s.free = s.cfg.rxCap
  free : s.free = free
  got : s.got = got

/-- A part of FLUSH waits for the flash engine, with the program memory and the open sections it found. -/
structure State.WaitsForPort (k : Task) (ts : List Task) (flash : Memory) (isave : List Bool) (s : State) : Prop where
  todo : s.todo = k :: ts
  busy : s.spmBusy = true
  flash : s.flash = flash
  isave : s.isave = isave

section
variable {s t : State} {e : Event} {k : Task} {ts ks : List Task}

theorem State.WaitsToSend.kept {w : List Byte} (h : s.WaitsToSend k ts w) (hk : TaskWaits k s) (he : e ≠ .transmitter)
    (hx : agentStep e s = .next t) : t.WaitsToSend k ts w ∧ t.script = s.script := by
  obtain ⟨hbusy, hsent⟩ := (agentStep_sendsAtMostOne he hx).of_busy h.busy
  by_cases hq : e = .sequencer
  · subst hq
    obtain ⟨r, rfl⟩ := hk.agentStep_eq h.todo hx
    exact ⟨{ h with }, rfl⟩
  · have hb := agentStep_beside hq hx
    exact ⟨⟨(congrArg State.todo hb).trans h.todo, hbusy, hsent.trans h.sent⟩, (agentStep_sharedKept hq hx).script⟩

theorem State.HeldInXoff.kept {q : SeqState} {w : List Byte} (h : s.HeldInXoff ks q w) (he : e ≠ .transmitter)
    (hx : agentStep e s = .next t) : t.HeldInXoff ks q w ∧ t.script = s.script := by
  by_cases hq : e = .sequencer
  · subst hq
    obtain rfl := Host.Outcome.next.inj ((agentStep_sequencer_held h.held).symm.trans hx)
    exact ⟨h, rfl⟩
  by_cases hr : e = .receive
  · subst hr
    obtain rfl := Host.Outcome.next.inj ((receiveStep_held_busy h.held h.due h.notPaused h.busy).symm.trans hx)
    exact ⟨h, rfl⟩
  · have hb := agentStep_beside hq hx
    have hkept := agentStep_sharedKept hq hx
    obtain ⟨hfree, hpaused, hheld⟩ := hkept.receiver hr
    obtain ⟨hbusy, hsent⟩ := (agentStep_sendsAtMostOne he hx).of_busy h.busy
    have hcfg : t.cfg = s.cfg := (agentStep_extendsWires hx).cfg
    exact ⟨{
      held := hheld.trans h.held
      due := by rw [hfree, hcfg]; exact h.due
      notPaused := hpaused.trans h.notPaused
      busy := hbusy
      todo := (congrArg State.todo hb).trans h.todo
      seq := (congrArg State.seq hb).trans h.seq
      sent := hsent.trans h.sent }, hkept.script⟩

theorem State.WaitsToReceive.kept {free : Nat} {got : List Byte} (h : s.WaitsToReceive ts free got) (he : e ≠ .receive)
    (hx : agentStep e s = .next t) : t.WaitsToReceive ts free got ∧ t.script = s.script := by
  by_cases hq : e = .sequencer
  · subst hq
    obtain ⟨r, rfl⟩ := (taskWaits_recv h.empty.ge).agentStep_eq h.todo hx
    exact ⟨{ h with }, rfl⟩
  · have hb := agentStep_beside hq hx
    have hkept := agentStep_sharedKept hq hx
    obtain ⟨hfree, -, -⟩ := hkept.receiver he
    have hcfg : t.cfg = s.cfg := (agentStep_extendsWires hx).cfg
    exact ⟨{
      todo := (congrArg State.todo hb).trans h.todo
      empty := by rw [hfree, hcfg]; exact h.empty
      free := hfree.trans h.free
      got := (congrArg State.got hb).trans h.got }, hkept.script⟩

theorem State.WaitsForPort.kept {flash : Memory} {isave : List Bool} (h : s.WaitsForPort k ts flash isave)
    (hk : k = .flushErase ∨ k = .flushProgram ∨ k = .flushEnable) (he : e ≠ .flashEngine)
    (hx : agentStep e s = .next t) : t.WaitsForPort k ts flash isave ∧ t.script = s.script := by
  by_cases hq : e = .sequencer
  · subst hq
    obtain ⟨r, rfl⟩ := (taskWaits_flush hk h.busy).agentStep_eq h.todo hx
    exact ⟨{ h with }, rfl⟩
  · have hb := agentStep_beside hq hx
    have hkept := agentStep_sharedKept hq hx
    exact ⟨{
      todo := (congrArg State.todo hb).trans h.todo
      busy := (hkept.port he).trans h.busy
      flash := (congrArg State.flash hb).trans h.flash
      isave := (congrArg State.isave hb).trans h.isave }, hkept.script⟩

end

/-- Settles O13: each wait is kept by every step of every agent but the one it is for, and so along the run. -/
theorem waitsNeverPass : Obligations.WaitsNeverPass := by
  intro s t es ts h
  refine ⟨fun i hi ht hb hes => ?_, fun hh hf hp hb hes => ?_, fun ht hf hes => ?_, fun k hk ht hb hes => ?_⟩
  · have hw : t.WaitsToSend (.run i) ts s.wireOut :=
      plays_keeps (fun _ _ hu => { hu with })
        (fun e he u v hu => hu.kept (taskWaits_of_txBusy hi hu.busy) (ne_of_mem_of_not_mem he hes)) ⟨ht, hb, rfl⟩ h
    exact ⟨hw.todo.trans ht.symm, hw.busy, hw.sent⟩
  · have hw : t.HeldInXoff s.todo s.seq s.wireOut :=
      plays_keeps (fun _ _ hu => { hu with }) (fun e he u v hu => hu.kept (ne_of_mem_of_not_mem he hes))
        ⟨hh, hf, hp, hb, rfl, rfl, rfl⟩ h
    exact ⟨hw.held, hw.todo, hw.seq, hw.sent⟩
  · have hw : t.WaitsToReceive ts s.free s.got :=
      plays_keeps (fun _ _ hu => { hu with }) (fun e he u v hu => hu.kept (ne_of_mem_of_not_mem he hes))
        ⟨ht, hf, rfl, rfl⟩ h
    exact ⟨hw.todo.trans ht.symm, hw.free, hw.got⟩
  · have hw : t.WaitsForPort k ts s.flash s.isave :=
      plays_keeps (fun _ _ hu => { hu with }) (fun e he u v hu => hu.kept hk (ne_of_mem_of_not_mem he hes))
        ⟨ht, hb, rfl, rfl⟩ h
    exact ⟨hw.todo.trans ht.symm, hw.busy, hw.flash, hw.isave⟩

end Sys2Proof.Machine
end

section
/-! SUPPORT. Entry (70_reset_and_hazards.md rules R300 to R303, 40_transport.md rule R140): the first step, and that the ready
byte is the first byte sent. -/

namespace Sys2Proof.Machine

/-- The state that entry has initialised (70_reset_and_hazards.md rule R302). -/
def State.initialised (s : State) : State :=
  { s with
    active := true, head := 0, tail := 0, free := s.cfg.rxCap, paused := false, dirty := false, ivsel := true, I := true,
    got := [] }

section
variable {s t : State}

/-- Entry with the transmit register free: the ready byte is sent. -/
theorem entry_ready (htx : s.txReady = true) :
    entry s = .next (emit s.cfg.readyByte (push (.goto .awaitCmd) s.initialised)) :=
  congrArg Host.Outcome.next (transmit_ready (s := push (.goto .awaitCmd) s.initialised) htx ..)

/-- Entry with the transmit register busy: the ready byte is left to be sent first (log entry 18). -/
theorem entry_busy (htx : s.txReady = false) :
    entry s = .next (push (.run .ctlReady) (push (.goto .awaitCmd) s.initialised)) :=
  congrArg Host.Outcome.next (transmit_busy (s := push (.goto .awaitCmd) s.initialised) htx ..)

theorem advance_enabled (hq : s.seq = .reset) (he : s.cfg.enable = true) : advance s = entry s := by
  rw [advance_of_reset hq, if_pos he]

theorem advance_disabled (hq : s.seq = .reset) (he : s.cfg.enable = false) : advance s = exec .handoff s := by
  rw [advance_of_reset hq, if_neg (by simp [he])]

/-- The step before anything is sent: entry sends the ready byte, and no other agent changes what entry turns on. -/
theorem agentStep_readyFirst {e : Event} (he : s.cfg.enable = true)
    (h : s.seq = .reset ∧ s.todo = [] ∧ s.wireOut = [] ∧ s.I = false ∧ s.held = false ∧ s.txReady = true)
    (hx : agentStep e s = .next t) : t.ReadyFirst := by
  have hs : s.ReadyFirst := fun _ => .inl h
  obtain ⟨hq, ht, hw, hI, hh, htx⟩ := h
  cases e with
  | sequencer =>
    have hentry : agentStep .sequencer s = entry s := by
      rw [agentStep, if_neg (by simp [hh]), sequencerStep_of_nothing_left ht, advance_enabled hq he]
    rw [hentry, entry_ready htx] at hx
    obtain rfl := Host.Outcome.next.inj hx
    exact fun _ => .inr (congrArg (fun w => (w ++ [s.cfg.readyByte]).head?) hw)
  | receive =>
    obtain rfl := Host.Outcome.next.inj ((receiveStep_masked hh (.inl hI)).symm.trans hx)
    exact hs
  | transmitter =>
    obtain rfl := Host.Outcome.next.inj hx
    exact fun _ => .inl ⟨hq, ht, hw, hI, hh, rfl⟩
  | flashEngine => obtain rfl := Host.Outcome.next.inj hx; exact hs
  | peer b =>
    obtain rfl := Host.Outcome.next.inj hx
    rcases peerStep_cases b s with ⟨-, h⟩ | ⟨-, h⟩ <;> rw [h] <;> exact hs
  | peerTakes => obtain rfl := Host.Outcome.next.inj hx; exact hs

end

/-- Settles O57: before entry by the agent that steps, and afterwards because no step takes back a byte sent. -/
theorem readyByteFirst : Obligations.ReadyByteFirst := by
  intro s t h hx ht
  have hwires := step_extendsWires hx
  have hs : s.cfg.enable = true := hwires.cfg ▸ ht
  rcases h hs with hbefore | hfirst
  · obtain ⟨es, n, e⟩ := afterChoice_eq s
    obtain ⟨-, hagent⟩ := step_next hx
    rw [e] at hagent
    exact agentStep_readyFirst (s := { s with script := es, tick := n }) hs hbefore hagent ht
  · obtain ⟨bs, -, hw⟩ := hwires.wireOut
    right
    rw [hw, hwires.cfg, List.head?_append, hfirst, Option.some_or]

/-- Settles O48: the first step is the hand-off or entry by ENABLE, and with the ready byte sent the step to the command loop
follows. -/
theorem entryAndEnablePolicy : Obligations.EntryAndEnablePolicy := by
  intro s ha hh hq ht
  refine ⟨fun he => ?_, fun he htx hg => ?_, fun he htx hg => ?_⟩
  · have hfirst : Leads [.sequencer] s { s with I := false, ivsel := false, seq := .handedOff, todo := [] } :=
      .advance ha hh ht fun fs => (advance_disabled (s := { s with script := fs }) hq he).trans (handoffCompletes _)
    rw [hfirst.plays, ht]
  · have hfirst : Leads [.sequencer] s (push (.run .ctlReady) (push (.goto .awaitCmd) s.initialised)) :=
      .advance ha hh ht fun fs =>
        (advance_enabled (s := { s with script := fs }) hq he).trans (entry_busy (s := { s with script := fs }) htx)
    rw [hfirst.plays]
    simp only [push, State.initialised, ht, hg]
  · have hfirst : Leads [.sequencer] s (emit s.cfg.readyByte (push (.goto .awaitCmd) s.initialised)) :=
      .advance ha hh ht fun fs =>
        (advance_enabled (s := { s with script := fs }) hq he).trans (entry_ready (s := { s with script := fs }) htx)
    have hloop : Leads [.sequencer] (emit s.cfg.readyByte (push (.goto .awaitCmd) s.initialised))
        { emit s.cfg.readyByte s.initialised with seq := .awaitCmd } :=
      .task ha hh rfl fun _ => rfl
    refine (hfirst.trans hloop).plays.trans (congrArg Host.Outcome.next ?_)
    simp only [emit, State.initialised, hg]

end Sys2Proof.Machine
end
